-- ==== Sys2Proof/Word.lean ====
section
/-! DEFINITION. The widths of the machine's words (10_state.md R21, R26, R31; 30_encoding.md R72).
Everything is unsigned and nothing is sign-extended (00_scope.md R11). -/

namespace Sys2Proof

/-- A general register, a timer or a memory cell: 8 bits (R21, R28, R29, R34). -/
abbrev Byte := BitVec 8

/-- An instruction word, PC or a stack slot: 16 bits (R26, R31, R72; decision D20). -/
abbrev Word := BitVec 16

/-- One of the four nibbles of an instruction word (R11). -/
abbrev Nibble := BitVec 4

/-- The address field nnn of an instruction word: 12 bits (R72). -/
abbrev Addr12 := BitVec 12

end Sys2Proof
end

