-- ==== Sys2Proof/Config.lean ====
section
/-! DEFINITION. What an implementation fixes (the named parameters of 00_scope.md R10) and the free
values no rule fixes (the inputs of a step, R39, and the key FX0A takes, R216). -/

namespace Sys2Proof

/-- SYS_MODE (R161, D2): what 0NNN does. -/
inductive SysMode where
  | refuse
  | nop
deriving DecidableEq, Repr

/-- I_ADD_WIDTH (R142, D8): the width FX1E reduces its sum to. -/
inductive IAddWidth where
  | w12
  | w16
  | unbounded
deriving DecidableEq, Repr

/-- BNNN_MASK (R169, D10): whether the target of BNNN is reduced to 12 bits. -/
inductive BnnnMask where
  | unmasked
  | mask12
deriving DecidableEq, Repr

/-- RET_ADVANCE (R162, D11): what RET adds to the popped address. -/
inductive RetAdvance where
  | plus2
  | asPopped
deriving DecidableEq, Repr

/-- SUB_FLAG_POLARITY (R109, R111, D30): what VF = 1 means after a subtraction. -/
inductive SubFlagPolarity where
  | notBorrow
  | borrow
deriving DecidableEq, Repr

/-- The parameters of R10 that have more than one value. PC_BITS and I_BITS have one value each, 16. -/
structure Params where
  sysMode         : SysMode
  /-- STRICT_5_9 (R85, D4): whether 5XYN and 9XYN need n = 0. -/
  strict59        : Bool
  iAddWidth       : IAddWidth
  /-- LDST_INCREMENTS_I (R145, R146, D9). -/
  ldstIncrementsI : Bool
  bnnnMask        : BnnnMask
  retAdvance      : RetAdvance
  subFlagPolarity : SubFlagPolarity
  /-- FONT (R37, D19): the 80 bytes reset puts at address 0. -/
  font            : Vector Byte 80
deriving DecidableEq, Repr

/-- The 16 key lines: `keys[k]` is true when key k is down (R39, R250). -/
abbrev Keys := Vector Bool 16

/-- The two inputs of one step (R70, R250). -/
structure StepInput where
  keys : Keys
  rnd  : Byte
deriving DecidableEq, Repr

/-- FREE VALUE: the key lines of the n-th step when the host has queued none (R39, D13).
No body: no claim can rest on a value of it. -/
opaque Config.freeKeys : Nat → Keys

/-- FREE VALUE: the random byte of the n-th step when the host has queued none (R113, D14). -/
opaque Config.freeRnd : Nat → Byte

/-- FREE VALUE: which of the keys that are down the n-th step's FX0A takes (R216, D12). -/
opaque Config.freeKeyPick : Nat → Nat

end Sys2Proof
end

