-- ==== Sys2Proof/Syntax.lean ====
section
/-! DEFINITION. The 35 instructions of 30_encoding.md R84, one constructor per row of
spec/opcode_table.json, in the table's order, with the operand fields of R73 and R74. -/

namespace Sys2Proof

/-- A register index, V0 to VF: x and y select registers and are never used as values (R74). -/
abbrev Reg := Fin 16

/-- The instructions. SHR and SHL keep the y their words encode, which no rule reads (R110, R112).
SE Vx,Vy and SNE Vx,Vy keep the low nibble n, which decode ignores unless STRICT_5_9 (R85). -/
inductive Instr where
  | cls
  | ret
  | sys (nnn : Addr12)
  | jp (nnn : Addr12)
  | call (nnn : Addr12)
  | seVxNn (x : Reg) (nn : Byte)
  | sneVxNn (x : Reg) (nn : Byte)
  | seVxVy (x y : Reg) (n : Nibble)
  | ldVxNn (x : Reg) (nn : Byte)
  | addVxNn (x : Reg) (nn : Byte)
  | ldVxVy (x y : Reg)
  | orVxVy (x y : Reg)
  | andVxVy (x y : Reg)
  | xorVxVy (x y : Reg)
  | addVxVy (x y : Reg)
  | subVxVy (x y : Reg)
  | shr (x y : Reg)
  | subn (x y : Reg)
  | shl (x y : Reg)
  | sneVxVy (x y : Reg) (n : Nibble)
  | ldINnn (nnn : Addr12)
  | jpV0Nnn (nnn : Addr12)
  | rnd (x : Reg) (nn : Byte)
  | drw (x y : Reg) (n : Nibble)
  | skp (x : Reg)
  | sknp (x : Reg)
  | ldVxDt (x : Reg)
  | ldVxK (x : Reg)
  | ldDtVx (x : Reg)
  | ldStVx (x : Reg)
  | addIVx (x : Reg)
  | ldFVx (x : Reg)
  | ldBVx (x : Reg)
  | ldMemVx (x : Reg)
  | ldVxMem (x : Reg)
deriving DecidableEq, Repr

/-- The row of spec/opcode_table.json an instruction belongs to, by its mnemonic. -/
def Instr.mnemonic : Instr → String
  | .cls => "CLS"
  | .ret => "RET"
  | .sys _ => "SYS"
  | .jp _ => "JP"
  | .call _ => "CALL"
  | .seVxNn _ _ => "SE_Vx_nn"
  | .sneVxNn _ _ => "SNE_Vx_nn"
  | .seVxVy _ _ _ => "SE_Vx_Vy"
  | .ldVxNn _ _ => "LD_Vx_nn"
  | .addVxNn _ _ => "ADD_Vx_nn"
  | .ldVxVy _ _ => "LD_Vx_Vy"
  | .orVxVy _ _ => "OR"
  | .andVxVy _ _ => "AND"
  | .xorVxVy _ _ => "XOR"
  | .addVxVy _ _ => "ADD_Vx_Vy"
  | .subVxVy _ _ => "SUB"
  | .shr _ _ => "SHR"
  | .subn _ _ => "SUBN"
  | .shl _ _ => "SHL"
  | .sneVxVy _ _ _ => "SNE_Vx_Vy"
  | .ldINnn _ => "LD_I_nnn"
  | .jpV0Nnn _ => "JP_V0_nnn"
  | .rnd _ _ => "RND"
  | .drw _ _ _ => "DRW"
  | .skp _ => "SKP"
  | .sknp _ => "SKNP"
  | .ldVxDt _ => "LD_Vx_DT"
  | .ldVxK _ => "LD_Vx_K"
  | .ldDtVx _ => "LD_DT_Vx"
  | .ldStVx _ => "LD_ST_Vx"
  | .addIVx _ => "ADD_I_Vx"
  | .ldFVx _ => "LD_F_Vx"
  | .ldBVx _ => "LD_B_Vx"
  | .ldMemVx _ => "LD__I__Vx"
  | .ldVxMem _ => "LD_Vx__I"

end Sys2Proof
end

