-- ==== Sys2Proof/WellFormed.lean ====
section
/-! DEFINITION. Which instruction terms a word of the machine stands for. Two checks: SYS never carries
the addresses of CLS and RET (30_encoding.md R76), and SE Vx,Vy and SNE Vx,Vy carry n = 0 when
STRICT_5_9 is set (R85). Every other field admits every value of its width (R74). -/

namespace Sys2Proof

/-- Some word decodes to the instruction under STRICT_5_9 = `strict`. -/
def Instr.wellFormed (strict : Bool) : Instr → Bool
  | .sys nnn => nnn != 0x0E0 && nnn != 0x0EE
  | .seVxVy _ _ n => !strict || n == 0
  | .sneVxVy _ _ n => !strict || n == 0
  | .cls | .ret | .jp _ | .call _ | .seVxNn _ _ | .sneVxNn _ _ | .ldVxNn _ _ | .addVxNn _ _
  | .ldVxVy _ _ | .orVxVy _ _ | .andVxVy _ _ | .xorVxVy _ _ | .addVxVy _ _ | .subVxVy _ _
  | .shr _ _ | .subn _ _ | .shl _ _ | .ldINnn _ | .jpV0Nnn _ | .rnd _ _ | .drw _ _ _
  | .skp _ | .sknp _ | .ldVxDt _ | .ldVxK _ | .ldDtVx _ | .ldStVx _ | .addIVx _ | .ldFVx _
  | .ldBVx _ | .ldMemVx _ | .ldVxMem _ => true

end Sys2Proof
end

