-- ==== Sys2Proof/Decode.lean ====
section
/-! DEFINITION. Decoding (30_encoding.md R72 to R77, R85), the encoder written from the same patterns,
and the opcode map R84 as a table of mask and match. -/

namespace Sys2Proof

/-! ### Fields of an instruction word (R11, R72) -/

/-- The family nibble `ins[15:12]`. -/
def famField (w : Word) : Nibble := w.extractLsb' 12 4
/-- `ins[11:8]`. -/
def xField (w : Word) : Nibble := w.extractLsb' 8 4
/-- `ins[7:4]`. -/
def yField (w : Word) : Nibble := w.extractLsb' 4 4
/-- `ins[3:0]`. -/
def nField (w : Word) : Nibble := w.extractLsb' 0 4
/-- `ins[7:0]`. -/
def nnField (w : Word) : Byte := w.extractLsb' 0 8
/-- `ins[11:0]`. -/
def nnnField (w : Word) : Addr12 := w.extractLsb' 0 12

/-- A nibble as the register it selects. -/
def regOf (b : Nibble) : Reg := ⟨b.toNat, b.isLt⟩
/-- A register as the nibble that selects it. -/
def regBits (r : Reg) : Nibble := BitVec.ofFin r
/-- The register x selects. -/
def xReg (w : Word) : Reg := regOf (xField w)
/-- The register y selects. -/
def yReg (w : Word) : Reg := regOf (yField w)

/-! ### Decode -/

/-- Why bytes decode to no instruction. `unknownOpcode`: the word matches no row of R84 (the core then
raises UnknownOpcode, R77). `truncated`: fewer than the two bytes every instruction has (R72). -/
inductive DecodeError where
  | unknownOpcode (w : Word)
  | truncated
deriving DecidableEq, Repr

/-- Family 0 is matched on the whole word: 00E0, 00EE, and SYS for every other (R76). -/
def decodeFam0 (w : Word) : Instr :=
  if w = 0x00E0 then .cls
  else if w = 0x00EE then .ret
  else .sys (nnnField w)

/-- Families 5 and 9: n is ignored unless STRICT_5_9 (R85). -/
def decodeFam59 (strict : Bool) (mk : Reg → Reg → Nibble → Instr) (w : Word) :
    Except DecodeError Instr :=
  if strict = true ∧ nField w ≠ 0 then .error (.unknownOpcode w)
  else .ok (mk (xReg w) (yReg w) (nField w))

/-- Family 8 dispatches on n (R77). -/
def decodeFam8 (w : Word) : Except DecodeError Instr :=
  match (nField w).toNat with
  | 0x0 => .ok (.ldVxVy (xReg w) (yReg w))
  | 0x1 => .ok (.orVxVy (xReg w) (yReg w))
  | 0x2 => .ok (.andVxVy (xReg w) (yReg w))
  | 0x3 => .ok (.xorVxVy (xReg w) (yReg w))
  | 0x4 => .ok (.addVxVy (xReg w) (yReg w))
  | 0x5 => .ok (.subVxVy (xReg w) (yReg w))
  | 0x6 => .ok (.shr (xReg w) (yReg w))
  | 0x7 => .ok (.subn (xReg w) (yReg w))
  | 0xE => .ok (.shl (xReg w) (yReg w))
  | _ => .error (.unknownOpcode w)

/-- Family E dispatches on nn (R77). -/
def decodeFamE (w : Word) : Except DecodeError Instr :=
  if nnField w = 0x9E then .ok (.skp (xReg w))
  else if nnField w = 0xA1 then .ok (.sknp (xReg w))
  else .error (.unknownOpcode w)

/-- Family F dispatches on nn (R77). -/
def decodeFamF (w : Word) : Except DecodeError Instr :=
  if nnField w = 0x07 then .ok (.ldVxDt (xReg w))
  else if nnField w = 0x0A then .ok (.ldVxK (xReg w))
  else if nnField w = 0x15 then .ok (.ldDtVx (xReg w))
  else if nnField w = 0x18 then .ok (.ldStVx (xReg w))
  else if nnField w = 0x1E then .ok (.addIVx (xReg w))
  else if nnField w = 0x29 then .ok (.ldFVx (xReg w))
  else if nnField w = 0x33 then .ok (.ldBVx (xReg w))
  else if nnField w = 0x55 then .ok (.ldMemVx (xReg w))
  else if nnField w = 0x65 then .ok (.ldVxMem (xReg w))
  else .error (.unknownOpcode w)

/-- Decode a word under STRICT_5_9 = `strict`: the family nibble selects, families 0, 8, E and F
dispatch again (R75). -/
def decodeWord (strict : Bool) (w : Word) : Except DecodeError Instr :=
  match (famField w).toNat with
  | 0x0 => .ok (decodeFam0 w)
  | 0x1 => .ok (.jp (nnnField w))
  | 0x2 => .ok (.call (nnnField w))
  | 0x3 => .ok (.seVxNn (xReg w) (nnField w))
  | 0x4 => .ok (.sneVxNn (xReg w) (nnField w))
  | 0x5 => decodeFam59 strict .seVxVy w
  | 0x6 => .ok (.ldVxNn (xReg w) (nnField w))
  | 0x7 => .ok (.addVxNn (xReg w) (nnField w))
  | 0x8 => decodeFam8 w
  | 0x9 => decodeFam59 strict .sneVxVy w
  | 0xA => .ok (.ldINnn (nnnField w))
  | 0xB => .ok (.jpV0Nnn (nnnField w))
  | 0xC => .ok (.rnd (xReg w) (nnField w))
  | 0xD => .ok (.drw (xReg w) (yReg w) (nField w))
  | 0xE => decodeFamE w
  | 0xF => decodeFamF w
  | _ => .error (.unknownOpcode w)

/-- Two bytes as a word: the byte at the lower address is the high byte (20_memory.md R53). -/
def wordOfBytes (hi lo : Byte) : Word := hi ++ lo

/-- Decode the instruction at the head of a list of bytes; the rest of the list follows it. -/
def decodeBytes (strict : Bool) : List Byte → Except DecodeError (Instr × List Byte)
  | hi :: lo :: rest =>
    match decodeWord strict (wordOfBytes hi lo) with
    | .ok i => .ok (i, rest)
    | .error e => .error e
  | _ => .error .truncated

/-! ### Encode (the patterns of R84) -/

/-- The format oNNN (R73). -/
def fmtNNN (o : Nibble) (nnn : Addr12) : Word := o ++ nnn
/-- The formats oXNN and oXss (R73). -/
def fmtXNN (o : Nibble) (x : Reg) (nn : Byte) : Word := (o ++ regBits x ++ nn : BitVec 16)
/-- The formats oXYs and DXYN (R73). -/
def fmtXYN (o : Nibble) (x y : Reg) (n : Nibble) : Word := (o ++ regBits x ++ regBits y ++ n : BitVec 16)

/-- The word of an instruction. -/
def encode : Instr → Word
  | .cls => 0x00E0
  | .ret => 0x00EE
  | .sys nnn => fmtNNN 0x0 nnn
  | .jp nnn => fmtNNN 0x1 nnn
  | .call nnn => fmtNNN 0x2 nnn
  | .seVxNn x nn => fmtXNN 0x3 x nn
  | .sneVxNn x nn => fmtXNN 0x4 x nn
  | .seVxVy x y n => fmtXYN 0x5 x y n
  | .ldVxNn x nn => fmtXNN 0x6 x nn
  | .addVxNn x nn => fmtXNN 0x7 x nn
  | .ldVxVy x y => fmtXYN 0x8 x y 0x0
  | .orVxVy x y => fmtXYN 0x8 x y 0x1
  | .andVxVy x y => fmtXYN 0x8 x y 0x2
  | .xorVxVy x y => fmtXYN 0x8 x y 0x3
  | .addVxVy x y => fmtXYN 0x8 x y 0x4
  | .subVxVy x y => fmtXYN 0x8 x y 0x5
  | .shr x y => fmtXYN 0x8 x y 0x6
  | .subn x y => fmtXYN 0x8 x y 0x7
  | .shl x y => fmtXYN 0x8 x y 0xE
  | .sneVxVy x y n => fmtXYN 0x9 x y n
  | .ldINnn nnn => fmtNNN 0xA nnn
  | .jpV0Nnn nnn => fmtNNN 0xB nnn
  | .rnd x nn => fmtXNN 0xC x nn
  | .drw x y n => fmtXYN 0xD x y n
  | .skp x => fmtXNN 0xE x 0x9E
  | .sknp x => fmtXNN 0xE x 0xA1
  | .ldVxDt x => fmtXNN 0xF x 0x07
  | .ldVxK x => fmtXNN 0xF x 0x0A
  | .ldDtVx x => fmtXNN 0xF x 0x15
  | .ldStVx x => fmtXNN 0xF x 0x18
  | .addIVx x => fmtXNN 0xF x 0x1E
  | .ldFVx x => fmtXNN 0xF x 0x29
  | .ldBVx x => fmtXNN 0xF x 0x33
  | .ldMemVx x => fmtXNN 0xF x 0x55
  | .ldVxMem x => fmtXNN 0xF x 0x65

/-- The high byte of a word, which stands at the lower address (R53). -/
def highByte (w : Word) : Byte := w.extractLsb' 8 8
/-- The low byte of a word. -/
def lowByte (w : Word) : Byte := w.extractLsb' 0 8
/-- A word as the bytes the memory holds it in (R53). -/
def bytesOfWord (w : Word) : List Byte := [highByte w, lowByte w]

/-- The instruction's word as the opcode table numbers its bits; `nbits` is 16 for every row. -/
def tableWord (nbits w : Nat) : Word := BitVec.ofNat 16 (w % 2 ^ nbits)

/-- What the decoder reads from the instruction whose bits are `w`, under the default STRICT_5_9 = false. -/
def decodeTableWord (nbits w : Nat) : Option Instr :=
  match decodeBytes false (bytesOfWord (tableWord nbits w)) with
  | .ok (i, _) => some i
  | .error _ => none

/-! ### The opcode map R84 as data -/

/-- A row of R84: a word belongs to it when `word &&& mask = pattern`. -/
structure TableRow where
  mnemonic : String
  mask     : Word
  pattern  : Word
deriving DecidableEq, Repr

/-- R84 in its order (00E0 and 00EE before SYS); the masks of rows 8 and 20 depend on STRICT_5_9. -/
def opcodeTable (strict : Bool) : List TableRow :=
  [⟨"CLS", 0xFFFF, 0x00E0⟩, ⟨"RET", 0xFFFF, 0x00EE⟩, ⟨"SYS", 0xF000, 0x0000⟩,
   ⟨"JP", 0xF000, 0x1000⟩, ⟨"CALL", 0xF000, 0x2000⟩, ⟨"SE_Vx_nn", 0xF000, 0x3000⟩,
   ⟨"SNE_Vx_nn", 0xF000, 0x4000⟩, ⟨"SE_Vx_Vy", if strict then 0xF00F else 0xF000, 0x5000⟩,
   ⟨"LD_Vx_nn", 0xF000, 0x6000⟩, ⟨"ADD_Vx_nn", 0xF000, 0x7000⟩] ++
  [⟨"LD_Vx_Vy", 0xF00F, 0x8000⟩, ⟨"OR", 0xF00F, 0x8001⟩, ⟨"AND", 0xF00F, 0x8002⟩,
   ⟨"XOR", 0xF00F, 0x8003⟩, ⟨"ADD_Vx_Vy", 0xF00F, 0x8004⟩, ⟨"SUB", 0xF00F, 0x8005⟩,
   ⟨"SHR", 0xF00F, 0x8006⟩, ⟨"SUBN", 0xF00F, 0x8007⟩, ⟨"SHL", 0xF00F, 0x800E⟩,
   ⟨"SNE_Vx_Vy", if strict then 0xF00F else 0xF000, 0x9000⟩] ++
  [⟨"LD_I_nnn", 0xF000, 0xA000⟩, ⟨"JP_V0_nnn", 0xF000, 0xB000⟩, ⟨"RND", 0xF000, 0xC000⟩,
   ⟨"DRW", 0xF000, 0xD000⟩, ⟨"SKP", 0xF0FF, 0xE09E⟩, ⟨"SKNP", 0xF0FF, 0xE0A1⟩,
   ⟨"LD_Vx_DT", 0xF0FF, 0xF007⟩, ⟨"LD_Vx_K", 0xF0FF, 0xF00A⟩, ⟨"LD_DT_Vx", 0xF0FF, 0xF015⟩,
   ⟨"LD_ST_Vx", 0xF0FF, 0xF018⟩, ⟨"ADD_I_Vx", 0xF0FF, 0xF01E⟩, ⟨"LD_F_Vx", 0xF0FF, 0xF029⟩,
   ⟨"LD_B_Vx", 0xF0FF, 0xF033⟩, ⟨"LD__I__Vx", 0xF0FF, 0xF055⟩, ⟨"LD_Vx__I", 0xF0FF, 0xF065⟩]

end Sys2Proof
end

