-- ==== Sys2Proof/Machine/Defaults.lean ====
section
/-! DEFINITION. The default values of the parameters (00_scope.md R10) and the standard font (10_state.md R37). -/

namespace Sys2Proof.Machine

/-- The standard font of R37, glyph d at 5d, top row first. PRESUMED (log 9): the spec takes the bytes from
general knowledge (D19, G10). -/
def standardFont : Vector Byte 80 :=
  #v[0xF0, 0x90, 0x90, 0x90, 0xF0,  0x20, 0x60, 0x20, 0x20, 0x70,
     0xF0, 0x10, 0xF0, 0x80, 0xF0,  0xF0, 0x10, 0xF0, 0x10, 0xF0,
     0x90, 0x90, 0xF0, 0x10, 0x10,  0xF0, 0x80, 0xF0, 0x10, 0xF0,
     0xF0, 0x80, 0xF0, 0x90, 0xF0,  0xF0, 0x10, 0x20, 0x40, 0x40,
     0xF0, 0x90, 0xF0, 0x90, 0xF0,  0xF0, 0x90, 0xF0, 0x10, 0xF0,
     0xF0, 0x90, 0xF0, 0x90, 0x90,  0xE0, 0x90, 0xE0, 0x90, 0xE0,
     0xF0, 0x80, 0x80, 0x80, 0xF0,  0xE0, 0x90, 0x90, 0x90, 0xE0,
     0xF0, 0x80, 0xF0, 0x80, 0xF0,  0xF0, 0x80, 0xF0, 0x80, 0x80]

/-- The default of every parameter (R10; decisions D2, D4, D8, D9, D10, D11, D19, D30). -/
def defaultParams : Params where
  sysMode := .refuse
  strict59 := false
  iAddWidth := .w16
  ldstIncrementsI := false
  bnnnMask := .unmasked
  retAdvance := .plus2
  subFlagPolarity := .notBorrow
  font := standardFont

end Sys2Proof.Machine
end

