-- ==== Sys2Proof/Machine/State.lean ====
section
/-! DEFINITION. The state of the core (10_state.md R20), plus the model's own fields: the parameters, the
inputs the host has queued, a counter for the free values, and the step-result port. -/

namespace Sys2Proof.Machine

/-- An error with the info it hands to the caller of `step()` (60_exceptions.md R230). -/
inductive Err where
  /-- A memory or stack address outside [0, 4096). -/
  | outOfRange (a : Nat)
  /-- A framebuffer coordinate outside the grid. -/
  | outOfRangePixel (x y : Nat)
  /-- A memory write of a value outside [0, 255]. -/
  | valueOverflow (v : Nat)
  /-- FX29, EX9E or EXA1 with Vx > 15. -/
  | valueExceedsNibble (v : Nat)
  /-- A word that matches no row of R84. -/
  | unknownOpcode (w : Word)
  /-- CALL with SP = 16; the address that was to be pushed. -/
  | stackOverflow (a : Nat)
  /-- RET with SP = 0. -/
  | stackUnderflow
  /-- DXYN with N = 0. -/
  | invalidSpriteHeight (h : Nat)
deriving DecidableEq, Repr

/-- What `fault` can hold besides none: one of the seven error codes of R230, or Refused (R38). -/
inductive FaultCode where
  | refused
  | outOfRange
  | valueOverflow
  | valueExceedsNibble
  | unknownOpcode
  | stackOverflow
  | stackUnderflow
  | invalidSpriteHeight
deriving DecidableEq, Repr

/-- The step-result port (R250): Ok, Err(code, info), Refused or Stopped. -/
inductive StepResult where
  | ok
  | err (e : Err)
  | refused
  | stopped
deriving DecidableEq, Repr

/-- The call stack: 16 slots of 16 bits (R31). -/
abbrev Stack := Vector Word 16

/-- The framebuffer: 32 rows of 64 one-bit pixels; FB[x][y] of R35 is bit x of row y. -/
abbrev Framebuffer := Vector (BitVec 64) 32

/-- Memory: the cells that differ from what reset leaves there, addresses strictly rising. -/
abbrev Memory := List Host.Cell

/-- Why a step is not taken: the second outcome of `step`. -/
inductive Fault where
  /-- Raised by `step` when `fault` is set: the core takes no step and its state is unchanged
  (R70 "Stopped", R38, R238). Safe: it is what the spec says a stopped core does. -/
  | stopped (c : FaultCode)
deriving DecidableEq, Repr

/-- Why an instruction has no meaning: the third outcome of `step`. -/
inductive Refusal where
  /-- Raised by an arm of `exec` that has no meaning yet. Safe. No arm raises it now. -/
  | notModelled (mnemonic : String)
deriving DecidableEq, Repr

/-- The state of the core (R20). -/
@[ext]
structure State where
  /-- V0 to VF, 8 bits each (R21). -/
  v      : Vector Byte 16
  /-- I (R25): below 2^16 unless I_ADD_WIDTH is unbounded, when it is an unbounded natural (R142). -/
  i      : Nat
  /-- PC, 16 bits (R26). -/
  pc     : Word
  /-- DT, 8 bits (R28). -/
  dt     : Byte
  /-- ST, 8 bits (R29). -/
  st     : Byte
  /-- SP, a value in [0, 16] (R30). -/
  sp     : Fin 17
  /-- S[0] to S[15] (R31). -/
  stack  : Stack
  /-- M[0] to M[4095] (R34), in canonical form. -/
  mem    : Memory
  /-- FB (R35). -/
  fb     : Framebuffer
  /-- The sticky fault record (R38). -/
  fault  : Option FaultCode
  /-- Model's own: the step-result port, as the last step that ran left it (R250; log 2). -/
  result : StepResult
  /-- Model's own: the machine's parameters (R10; log 3). No step changes them. -/
  params : Params
  /-- Model's own: the inputs the host has queued for the next steps, the next one first (R250; log 4). -/
  inputs : List StepInput
  /-- Model's own: how many steps have drawn free values (log 4). -/
  draws  : Nat
deriving DecidableEq, Repr

/-- The machine right after reset (70_reset_and_hazards.md R260), with the default parameters. Memory lists
nothing: an unlisted address reads as reset leaves it. DT, ST and the slots are decision D16 (log 13). The last
four fields are the model's own. DESIGN CHOICE (log 2, log 3, log 4). -/
def State.reset : State where
  v := Vector.replicate 16 0
  i := 0
  pc := 0x200
  dt := 0
  st := 0
  sp := 0
  stack := Vector.replicate 16 0
  mem := []
  fb := Vector.replicate 32 0
  fault := none
  result := .ok
  params := defaultParams
  inputs := []
  draws := 0

end Sys2Proof.Machine
end

