-- ==== Sys2Proof/Machine/Ops.lean ====
section
/-! DEFINITION. The named operations over registers, memory, the stack, the framebuffer, the inputs of a step,
and error entry. Every meaning is written over these. -/

namespace Sys2Proof.Machine

/-! ### Memory as data (10_state.md R34) -/

/-- MEM_SIZE (R9). -/
def memSize : Nat := 4096

/-- PROG_BASE, also the reset PC (R9). -/
def progBase : Nat := 0x200

/-- What an unlisted address reads as: the contents reset leaves there, the standard font at 0 to 79 and 0
elsewhere (R34, R260). -/
def resetByte (a : Nat) : Byte := if h : a < 80 then standardFont[a] else 0

/-- The byte at an address. -/
def Memory.read : Memory → Nat → Byte
  | [], a => resetByte a
  | c :: m, a => if a = c.1 then c.2 else Memory.read m a

/-- The memory with no cell listed for an address. -/
def Memory.erase (m : Memory) (a : Nat) : Memory := m.filter (fun c => c.1 != a)

/-- Insert a cell before the first cell of a higher address. -/
def Memory.insert (a : Nat) (b : Byte) : Memory → Memory
  | [] => [(a, b)]
  | c :: m => if a < c.1 then (a, b) :: c :: m else c :: Memory.insert a b m

/-- Store a byte and keep the canonical form: a cell equal to what an unlisted address reads as is not listed. -/
def Memory.write (m : Memory) (a : Nat) (b : Byte) : Memory :=
  if b = resetByte a then m.erase a else Memory.insert a b (m.erase a)

/-- Store a list of bytes at successive addresses. -/
def Memory.writeList : Memory → Nat → List Byte → Memory
  | m, _, [] => m
  | m, a, b :: bs => Memory.writeList (m.write a b) (a + 1) bs

/-- The canonical form: addresses strictly rising and inside memory, no cell equal to what an unlisted address
reads as. -/
abbrev Memory.wf (m : Memory) : Prop :=
  m.Pairwise (fun c d => c.1 < d.1) ∧ ∀ c ∈ m, c.1 < memSize ∧ c.2 ≠ resetByte c.1

/-! ### Registers -/

/-- V[r] (R21). -/
def State.getV (s : State) (r : Reg) : Byte := s.v[r.val]

/-- V[r] <- b, a byte already narrowed to the low 8 bits (R22). -/
def State.setV (s : State) (r : Reg) (b : Byte) : State := { s with v := s.v.set r.val b }

/-- VF as a flag: 1 or 0, written after the result (R23, D5). -/
def State.setFlag (s : State) (f : Bool) : State := s.setV 15 (if f then 1 else 0)

/-- I <- a (R25). -/
def State.setI (s : State) (a : Nat) : State := { s with i := a }
/-- DT <- b (R28). -/
def State.setDt (s : State) (b : Byte) : State := { s with dt := b }
/-- ST <- b (R29). -/
def State.setSt (s : State) (b : Byte) : State := { s with st := b }
/-- FB <- f (R35). -/
def State.setFb (s : State) (f : Framebuffer) : State := { s with fb := f }
/-- M <- m (R34). -/
def State.setMem (s : State) (m : Memory) : State := { s with mem := m }

/-- PC <- target (R26). -/
def State.jumpTo (s : State) (a : Word) : State := { s with pc := a }

/-- The default advance of R78. PC never wraps in a step, since only PCs up to 4094 fetch (R27; log 6). -/
def State.advance (s : State) : State := s.jumpTo (s.pc + 2)

/-- The advance of a conditional skip (R78): 4 when the condition holds, else 2. -/
def State.skipIf (s : State) (c : Bool) : State := s.jumpTo (s.pc + if c then 4 else 2)

/-! ### Error entry (60_exceptions.md R236, R241) -/

/-- The code `fault` keeps of an error (R230, R232). -/
def Err.code : Err → FaultCode
  | .outOfRange _ => .outOfRange
  | .outOfRangePixel _ _ => .outOfRange
  | .valueOverflow _ => .valueOverflow
  | .valueExceedsNibble _ => .valueExceedsNibble
  | .unknownOpcode _ => .unknownOpcode
  | .stackOverflow _ => .stackOverflow
  | .stackUnderflow => .stackUnderflow
  | .invalidSpriteHeight _ => .invalidSpriteHeight

/-- The numeric codes of R230 (D26). -/
def FaultCode.number : FaultCode → Nat
  | .refused => 0
  | .outOfRange => 1
  | .valueOverflow => 2
  | .valueExceedsNibble => 3
  | .unknownOpcode => 4
  | .stackOverflow => 5
  | .stackUnderflow => 6
  | .invalidSpriteHeight => 7

/-- What a step result leaves in `fault` (R236, R241). -/
def StepResult.faultCode : StepResult → Option FaultCode
  | .ok => none
  | .err e => some e.code
  | .refused => some .refused
  | .stopped => none

/-- The state error entry leaves: `fault <- E` and Err(E, info) on the result port; nothing else changes, so PC
still holds the address of the failing instruction and earlier effects of the instruction stay (R236, R237). -/
def State.raised (s : State) (e : Err) : State := { s with fault := some e.code, result := .err e }

/-- `raise E(info)` (R236): there is no handler and no return but reset (R238). -/
def raise (e : Err) (s : State) : Host.Outcome State Fault Refusal := .next (s.raised e)

/-- The state a refusal leaves: `fault <- Refused`, no other change, no PC advance (R241). -/
def State.refusedState (s : State) : State := { s with fault := some .refused, result := .refused }

/-- `refuse(ins)` (R241). -/
def refuse (s : State) : Host.Outcome State Fault Refusal := .next s.refusedState

/-- End an instruction made of several accesses: a failing one raises with the effects before it in place (R237);
otherwise `k` runs last. -/
def complete (r : State × Option Err) (k : State → State) : Host.Outcome State Fault Refusal :=
  match r.2 with
  | none => .next (k r.1)
  | some e => raise e r.1

/-! ### Memory accesses (20_memory.md R51, R52) -/

/-- MemRead(a, 1) (R51). -/
def memRead (s : State) (a : Nat) : Except Err Byte :=
  if a < memSize then .ok (s.mem.read a) else .error (.outOfRange a)

/-- MemWrite(a, 1, v): the address is checked before the value (R52, D18). -/
def memWrite (s : State) (a v : Nat) : Except Err State :=
  if ¬ a < memSize then .error (.outOfRange a)
  else if ¬ v ≤ 255 then .error (.valueOverflow v)
  else .ok (s.setMem (s.mem.write a (BitVec.ofNat 8 v)))

/-- Writes of successive bytes in ascending order, up to the first that fails (R55, R237). -/
def storeBytes (s : State) : Nat → List Nat → State × Option Err
  | _, [] => (s, none)
  | a, v :: vs =>
    match memWrite s a v with
    | .ok s' => storeBytes s' (a + 1) vs
    | .error e => (s, some e)

/-- Reads of M[base + r] into the registers r of a list, in order, up to the first that fails (R146, R237). -/
def loadRegs (s : State) (base : Nat) : List Reg → State × Option Err
  | [] => (s, none)
  | r :: rs =>
    match memRead s (base + r.val) with
    | .ok b => loadRegs (s.setV r b) base rs
    | .error e => (s, some e)

/-- The bytes at `a`, `a + 1`, ..., `n` of them, in ascending order (R192). -/
def readBytes (s : State) : Nat → Nat → Except Err (List Byte)
  | _, 0 => .ok []
  | a, n + 1 =>
    match memRead s a with
    | .error e => .error e
    | .ok b =>
      match readBytes s (a + 1) n with
      | .error e => .error e
      | .ok bs => .ok (b :: bs)

/-! ### Call stack (10_state.md R32, R33) -/

/-- Push(a) (R32): capacity first, then the address. -/
def push (s : State) (a : Word) : Except Err State :=
  if h : s.sp.val < 16 then
    if a.toNat < memSize then
      .ok { s with stack := s.stack.set s.sp.val a, sp := ⟨s.sp.val + 1, by omega⟩ }
    else .error (.outOfRange a.toNat)
  else .error (.stackOverflow a.toNat)

/-- The state Pop leaves: SP one lower, the slot not cleared (R31, R33). -/
def State.popped (s : State) : State := { s with sp := ⟨s.sp.val - 1, by omega⟩ }

/-- Pop() (R33): SP is lowered before the address is checked (log 7). -/
def pop (s : State) : State × Except Err Word :=
  if s.sp.val = 0 then (s, .error .stackUnderflow)
  else if (s.stack[s.sp.val - 1]).toNat < memSize then (s.popped, .ok s.stack[s.sp.val - 1])
  else (s.popped, .error (.outOfRange (s.stack[s.sp.val - 1]).toNat))

/-! ### Framebuffer (10_state.md R35, R36) -/

/-- The pixel at column x and row y; false outside the grid. -/
def Framebuffer.pixel (f : Framebuffer) (x y : Nat) : Bool :=
  if h : y < 32 then (f[y]).getLsbD x else false

/-- The framebuffer with the pixel at (x, y) flipped. -/
def Framebuffer.flip (f : Framebuffer) (x y : Nat) (h : y < 32) : Framebuffer :=
  f.set y (f[y] ^^^ BitVec.twoPow 64 x)

/-- FbGet(x, y) (R36). -/
def fbGet (f : Framebuffer) (x y : Nat) : Except Err Bool :=
  if x < 64 ∧ y < 32 then .ok (f.pixel x y) else .error (.outOfRangePixel x y)

/-- FbXor(x, y, b) (R36): XOR with b, and whether a set pixel was turned off. -/
def fbXor (f : Framebuffer) (x y : Nat) (b : Bool) : Except Err (Framebuffer × Bool) :=
  if h : x < 64 ∧ y < 32 then
    .ok (if b then f.flip x y h.2 else f, f.pixel x y && b)
  else .error (.outOfRangePixel x y)

/-- FbClear() (R36). -/
def fbClear : Framebuffer := Vector.replicate 32 0

/-- FbXor over a list of pixels; `hit` says whether one was turned off so far (R192). -/
def drawBits : List (Nat × Nat × Bool) → Framebuffer → Bool → Except Err (Framebuffer × Bool)
  | [], f, hit => .ok (f, hit)
  | (x, y, b) :: ps, f, hit =>
    match fbXor f x y b with
    | .error e => .error e
    | .ok (f', off) => drawBits ps f' (hit || off)

/-! ### Inputs of a step (R39, R250) -/

/-- The key lines of this step: the host's, or free when it has queued none (log 4). -/
def State.keys (s : State) : Keys :=
  match s.inputs with
  | inp :: _ => inp.keys
  | [] => Config.freeKeys s.draws

/-- The random byte of this step. -/
def State.rnd (s : State) : Byte :=
  match s.inputs with
  | inp :: _ => inp.rnd
  | [] => Config.freeRnd s.draws

/-- keys[k] (R12). -/
def State.keyDown (s : State) (k : Fin 16) : Bool := s.keys[k.val]

/-- A step starts with Ok on its result port. -/
def State.beginStep (s : State) : State := { s with result := .ok }

/-- A step has used its inputs. -/
def State.endStep (s : State) : State := { s with inputs := s.inputs.tail, draws := s.draws + 1 }

/-! ### Fetch (30_encoding.md R71) -/

/-- Fetch(): the byte at PC and the byte at PC + 1, big-endian (R71, R53). -/
def fetch (s : State) : Except Err Word :=
  match memRead s s.pc.toNat with
  | .error e => .error e
  | .ok hi =>
    match memRead s (s.pc.toNat + 1) with
    | .error e => .error e
    | .ok lo => .ok (wordOfBytes hi lo)

/-- A word placed where the next step fetches; a PC that no word fits at is left alone (log 12). -/
def State.placeWord (s : State) (w : Word) : State :=
  if s.pc.toNat + 1 < memSize then s.setMem (s.mem.writeList s.pc.toNat (bytesOfWord w)) else s

end Sys2Proof.Machine
end

