-- ==== Sys2Proof/Machine/Flags.lean ====
section
/-! DEFINITION. The results and flags of the arithmetic instructions (41_arith_logic.md R101): computed exactly on
integers, then narrowed to the low 8 bits. -/

namespace Sys2Proof.Machine

/-- a + b modulo 256 (R103, R108). -/
def addByte (a b : Byte) : Byte := BitVec.ofNat 8 (a.toNat + b.toNat)
/-- Carry of a + b: the exact sum exceeds 255 (R108). -/
def carryOf (a b : Byte) : Bool := 255 < a.toNat + b.toNat

/-- a - b modulo 256 (R109, R111). -/
def subByte (a b : Byte) : Byte := BitVec.ofInt 8 ((a.toNat : Int) - (b.toNat : Int))
/-- The flag of a - b: no borrow, a >= b; under SUB_FLAG_POLARITY = borrow, a < b (R109, R111, C1). -/
def subFlagOf (p : SubFlagPolarity) (a b : Byte) : Bool :=
  match p with
  | .notBorrow => b.toNat ≤ a.toNat
  | .borrow => a.toNat < b.toNat

/-- a shifted right by one, 0 into bit 7 (R110). -/
def shrByte (a : Byte) : Byte := BitVec.ofNat 8 (a.toNat / 2)
/-- The bit a right shift drops: bit 0 (R110). -/
def shrFlagOf (a : Byte) : Bool := a.toNat % 2 = 1

/-- a shifted left by one modulo 256, 0 into bit 0 (R112). -/
def shlByte (a : Byte) : Byte := BitVec.ofNat 8 (a.toNat * 2)
/-- The bit a left shift drops: bit 7 (R112). -/
def shlFlagOf (a : Byte) : Bool := 128 ≤ a.toNat

/-- A result into Vx and then a flag into VF, so that with x = F the flag stays (R23, D5). -/
def State.setResultFlag (s : State) (x : Reg) (b : Byte) (f : Bool) : State := (s.setV x b).setFlag f

end Sys2Proof.Machine
end

