-- ==== Sys2Proof/Machine/Arith.lean ====
section
/-! DEFINITION. Arithmetic and logic: the twelve instructions of 41_arith_logic.md. Operands are read before any
register is written (R100), and every one of them advances PC by 2. -/

namespace Sys2Proof.Machine

/-- LD Vx, nn (R102). -/
def execLdVxNn (x : Reg) (nn : Byte) (s : State) : Host.Outcome State Fault Refusal :=
  .next (s.setV x nn).advance

/-- ADD Vx, nn (R103): no flag. -/
def execAddVxNn (x : Reg) (nn : Byte) (s : State) : Host.Outcome State Fault Refusal :=
  .next (s.setV x (addByte (s.getV x) nn)).advance

/-- LD Vx, Vy (R104). -/
def execLdVxVy (x y : Reg) (s : State) : Host.Outcome State Fault Refusal :=
  .next (s.setV x (s.getV y)).advance

/-- OR Vx, Vy (R105): VF is no flag here (D6). -/
def execOrVxVy (x y : Reg) (s : State) : Host.Outcome State Fault Refusal :=
  .next (s.setV x (s.getV x ||| s.getV y)).advance

/-- AND Vx, Vy (R106). -/
def execAndVxVy (x y : Reg) (s : State) : Host.Outcome State Fault Refusal :=
  .next (s.setV x (s.getV x &&& s.getV y)).advance

/-- XOR Vx, Vy (R107). -/
def execXorVxVy (x y : Reg) (s : State) : Host.Outcome State Fault Refusal :=
  .next (s.setV x (s.getV x ^^^ s.getV y)).advance

/-- ADD Vx, Vy (R108): VF = carry. -/
def execAddVxVy (x y : Reg) (s : State) : Host.Outcome State Fault Refusal :=
  .next (s.setResultFlag x (addByte (s.getV x) (s.getV y)) (carryOf (s.getV x) (s.getV y))).advance

/-- SUB Vx, Vy (R109): VF = no borrow by default. -/
def execSubVxVy (x y : Reg) (s : State) : Host.Outcome State Fault Refusal :=
  .next (s.setResultFlag x (subByte (s.getV x) (s.getV y))
    (subFlagOf s.params.subFlagPolarity (s.getV x) (s.getV y))).advance

/-- SHR Vx, Vy (R110): y is not read. -/
def execShr (x _y : Reg) (s : State) : Host.Outcome State Fault Refusal :=
  .next (s.setResultFlag x (shrByte (s.getV x)) (shrFlagOf (s.getV x))).advance

/-- SUBN Vx, Vy (R111): Vy - Vx. -/
def execSubn (x y : Reg) (s : State) : Host.Outcome State Fault Refusal :=
  .next (s.setResultFlag x (subByte (s.getV y) (s.getV x))
    (subFlagOf s.params.subFlagPolarity (s.getV y) (s.getV x))).advance

/-- SHL Vx, Vy (R112): y is not read. -/
def execShl (x _y : Reg) (s : State) : Host.Outcome State Fault Refusal :=
  .next (s.setResultFlag x (shlByte (s.getV x)) (shlFlagOf (s.getV x))).advance

/-- RND Vx, nn (R113): the step's random byte and nn. -/
def execRnd (x : Reg) (nn : Byte) (s : State) : Host.Outcome State Fault Refusal :=
  .next (s.setV x (s.rnd &&& nn)).advance

end Sys2Proof.Machine
end

