-- ==== Sys2Proof/Machine/Operands.lean ====
section
/-! DEFINITION. The operand forms (30_encoding.md R74, 42_memory_index.md R147): immediates, targets, effective
addresses, register ranges, digits, sprite pixels and keys. -/

namespace Sys2Proof.Machine

/-- nnn as an address: zero-extended (R74). -/
def nnnAddr (nnn : Addr12) : Nat := nnn.toNat

/-- nnn as a PC target: zero-extended (R163, R164). -/
def nnnTarget (nnn : Addr12) : Word := BitVec.ofNat 16 (nnnAddr nnn)

/-- The target of BNNN: nnn + V0, reduced to 12 bits only under BNNN_MASK = mask12 (R169). -/
def offsetTarget (m : BnnnMask) (nnn : Addr12) (v0 : Byte) : Word :=
  match m with
  | .unmasked => BitVec.ofNat 16 (nnnAddr nnn + v0.toNat)
  | .mask12 => BitVec.ofNat 16 ((nnnAddr nnn + v0.toNat) % 4096)

/-- Where RET resumes: the popped address, plus 2 under RET_ADVANCE = plus2 (R162). -/
def returnTarget (r : RetAdvance) (a : Word) : Word :=
  match r with
  | .plus2 => a + 2
  | .asPopped => a

/-- I + Vx reduced to I_ADD_WIDTH (R142). -/
def indexSum (w : IAddWidth) (i : Nat) (v : Byte) : Nat :=
  match w with
  | .w12 => (i + v.toNat) % 2 ^ 12
  | .w16 => (i + v.toNat) % 2 ^ 16
  | .unbounded => i + v.toNat

/-- I after FX55 and FX65: (I + x + 1) mod 2^16 under LDST_INCREMENTS_I, else unchanged (R145, R146). -/
def State.postIncrement (s : State) (x : Reg) : State :=
  if s.params.ldstIncrementsI then s.setI ((s.i + x.val + 1) % 2 ^ 16) else s

/-- A register value used as a digit or key number: above 15 raises ValueExceedsNibble (R143, R214, R215). -/
def nibbleArg (v : Byte) : Except Err (Fin 16) :=
  if h : v.toNat < 16 then .ok ⟨v.toNat, h⟩ else .error (.valueExceedsNibble v.toNat)

/-- The address of the glyph of a digit (R143; FONT_BASE = 0). -/
def glyphAddr (d : Fin 16) : Nat := d.val * 5

/-- V0 to Vx in ascending order, x included (R145, R146). -/
def regsUpTo (x : Reg) : List Reg := (List.finRange 16).take (x.val + 1)

/-- The values of V0 to Vx (R145). -/
def State.valuesUpTo (s : State) (x : Reg) : List Nat := (regsUpTo x).map (fun r => (s.getV r).toNat)

/-- The decimal digits of a byte: hundreds, tens, units (R144). -/
def bcdDigits (v : Byte) : List Nat := [v.toNat / 100, v.toNat / 10 % 10, v.toNat % 10]

/-- A sprite height must lie in [1, 15] (R192, R230). -/
def checkHeight (h : Nat) : Except Err Unit :=
  if 1 ≤ h ∧ h ≤ 15 then .ok () else .error (.invalidSpriteHeight h)

/-- The 8 pixels of one sprite row, most significant bit first, wrapped at the edges (R192). -/
def rowBits (ox y : Nat) (row : Byte) : List (Nat × Nat × Bool) :=
  (List.range 8).map (fun c => ((ox + c) % 64, y % 32, row.getLsbD (7 - c)))

/-- The pixels of a sprite whose first row lands at row oy (R192). -/
def spriteBits (ox : Nat) : Nat → List Byte → List (Nat × Nat × Bool)
  | _, [] => []
  | oy, row :: rows => rowBits ox oy row ++ spriteBits ox (oy + 1) rows

/-- The keys that are down, in ascending order (R216). -/
def State.downKeys (s : State) : List (Fin 16) := (List.finRange 16).filter s.keyDown

/-- The key FX0A takes: none if no key is down, else any one of those down, as the free value picks (R216). -/
def chooseKey (pick : Nat) : List (Fin 16) → Option (Fin 16)
  | [] => none
  | [k] => some k
  | k :: k' :: ks => (k :: k' :: ks)[pick % (ks.length + 2)]?

end Sys2Proof.Machine
end

