-- ==== Sys2Proof/Machine/Control.lean ====
section
/-! DEFINITION. Control flow: the nine instructions of 43_control_flow.md. None writes a general register (R160), and
no target is checked before it is fetched from (R170). -/

namespace Sys2Proof.Machine

/-- SYS nnn (R161): refused, or a NOP under SYS_MODE = nop. -/
def execSys (_nnn : Addr12) (s : State) : Host.Outcome State Fault Refusal :=
  match s.params.sysMode with
  | .refuse => refuse s
  | .nop => .next s.advance

/-- RET (R162). -/
def execRet (s : State) : Host.Outcome State Fault Refusal :=
  match (pop s).2 with
  | .ok a => .next ((pop s).1.jumpTo (returnTarget s.params.retAdvance a))
  | .error e => raise e (pop s).1

/-- JP nnn (R163). -/
def execJp (nnn : Addr12) (s : State) : Host.Outcome State Fault Refusal :=
  .next (s.jumpTo (nnnTarget nnn))

/-- CALL nnn (R164): pushes its own address. -/
def execCall (nnn : Addr12) (s : State) : Host.Outcome State Fault Refusal :=
  match push s s.pc with
  | .ok t => .next (t.jumpTo (nnnTarget nnn))
  | .error e => raise e s

/-- SE Vx, nn (R165). -/
def execSeVxNn (x : Reg) (nn : Byte) (s : State) : Host.Outcome State Fault Refusal :=
  .next (s.skipIf (s.getV x == nn))

/-- SNE Vx, nn (R166). -/
def execSneVxNn (x : Reg) (nn : Byte) (s : State) : Host.Outcome State Fault Refusal :=
  .next (s.skipIf (s.getV x != nn))

/-- SE Vx, Vy (R167): n plays no part in the execution. -/
def execSeVxVy (x y : Reg) (_n : Nibble) (s : State) : Host.Outcome State Fault Refusal :=
  .next (s.skipIf (s.getV x == s.getV y))

/-- SNE Vx, Vy (R168). -/
def execSneVxVy (x y : Reg) (_n : Nibble) (s : State) : Host.Outcome State Fault Refusal :=
  .next (s.skipIf (s.getV x != s.getV y))

/-- JP V0, nnn (R169): the offset register is always V0. -/
def execJpV0Nnn (nnn : Addr12) (s : State) : Host.Outcome State Fault Refusal :=
  .next (s.jumpTo (offsetTarget s.params.bnnnMask nnn (s.getV 0)))

end Sys2Proof.Machine
end

