-- ==== Sys2Proof/Machine/Display.lean ====
section
/-! DEFINITION. The display: the two instructions of 44_display.md. -/

namespace Sys2Proof.Machine

/-- CLS (R191): VF is unchanged. -/
def execCls (s : State) : Host.Outcome State Fault Refusal :=
  .next (s.setFb fbClear).advance

/-- DRW Vx, Vy, n (R192): the height is checked, then all rows are read, then the pixels are drawn; VF = collision
is written last. An error leaves the pixels, VF and PC as they were. -/
def execDrw (x y : Reg) (n : Nibble) (s : State) : Host.Outcome State Fault Refusal :=
  match checkHeight n.toNat with
  | .error e => raise e s
  | .ok _ =>
    match readBytes s s.i n.toNat with
    | .error e => raise e s
    | .ok rows =>
      match drawBits (spriteBits (s.getV x).toNat (s.getV y).toNat rows) s.fb false with
      | .error e => raise e s
      | .ok (f, hit) => .next ((s.setFb f).setFlag hit).advance

end Sys2Proof.Machine
end

