-- ==== Sys2Proof/Machine/Index.lean ====
section
/-! DEFINITION. The index register and memory: the six instructions of 42_memory_index.md. None writes VF as a flag
(R140). -/

namespace Sys2Proof.Machine

/-- LD I, nnn (R141). -/
def execLdINnn (nnn : Addr12) (s : State) : Host.Outcome State Fault Refusal :=
  .next (s.setI (nnnAddr nnn)).advance

/-- ADD I, Vx (R142): VF is not written. -/
def execAddIVx (x : Reg) (s : State) : Host.Outcome State Fault Refusal :=
  .next (s.setI (indexSum s.params.iAddWidth s.i (s.getV x))).advance

/-- LD F, Vx (R143): Vx > 15 raises ValueExceedsNibble, and I and PC are then unchanged. -/
def execLdFVx (x : Reg) (s : State) : Host.Outcome State Fault Refusal :=
  match nibbleArg (s.getV x) with
  | .error e => raise e s
  | .ok d => .next (s.setI (glyphAddr d)).advance

/-- LD B, Vx (R144): three digits at I, I+1, I+2; those before a failing write stay. -/
def execLdBVx (x : Reg) (s : State) : Host.Outcome State Fault Refusal :=
  complete (storeBytes s s.i (bcdDigits (s.getV x))) State.advance

/-- LD [I], Vx (R145): V0 to Vx at I, I+1, ...; those before a failing write stay. -/
def execLdMemVx (x : Reg) (s : State) : Host.Outcome State Fault Refusal :=
  complete (storeBytes s s.i (s.valuesUpTo x)) (fun t => (t.postIncrement x).advance)

/-- LD Vx, [I] (R146): V0 to Vx from I, I+1, ...; those loaded before a failing read keep their new values. -/
def execLdVxMem (x : Reg) (s : State) : Host.Outcome State Fault Refusal :=
  complete (loadRegs s s.i (regsUpTo x)) (fun t => (t.postIncrement x).advance)

end Sys2Proof.Machine
end

