-- ==== Sys2Proof/Machine/TimerKey.lean ====
section
/-! DEFINITION. Timers and keypad: the six instructions of 45_timers_keypad.md. The key instructions read the key
lines of the step (R210). -/

namespace Sys2Proof.Machine

/-- LD Vx, DT (R211). -/
def execLdVxDt (x : Reg) (s : State) : Host.Outcome State Fault Refusal :=
  .next (s.setV x s.dt).advance

/-- LD DT, Vx (R212). -/
def execLdDtVx (x : Reg) (s : State) : Host.Outcome State Fault Refusal :=
  .next (s.setDt (s.getV x)).advance

/-- LD ST, Vx (R213). -/
def execLdStVx (x : Reg) (s : State) : Host.Outcome State Fault Refusal :=
  .next (s.setSt (s.getV x)).advance

/-- SKP Vx (R214). -/
def execSkp (x : Reg) (s : State) : Host.Outcome State Fault Refusal :=
  match nibbleArg (s.getV x) with
  | .error e => raise e s
  | .ok k => .next (s.skipIf (s.keyDown k))

/-- SKNP Vx (R215). -/
def execSknp (x : Reg) (s : State) : Host.Outcome State Fault Refusal :=
  match nibbleArg (s.getV x) with
  | .error e => raise e s
  | .ok k => .next (s.skipIf (!s.keyDown k))

/-- The state FX0A leaves for the key taken: no change and no advance when no key is down (R216). -/
def State.takeKey (s : State) (x : Reg) : Option (Fin 16) → State
  | none => s
  | some k => (s.setV x (BitVec.ofNat 8 k.val)).advance

/-- LD Vx, K (R216): the key is a free choice among those down. -/
def execLdVxK (x : Reg) (s : State) : Host.Outcome State Fault Refusal :=
  .next (s.takeKey x (chooseKey (Config.freeKeyPick s.draws) s.downKeys))

end Sys2Proof.Machine
end

