-- ==== Sys2Proof/Machine/Cycle.lean ====
section
/-! DEFINITION. One fetch-decode-execute-advance cycle (30_encoding.md R70). -/

namespace Sys2Proof.Machine

/-- Decode a fetched word and execute it; a word of no instruction raises UnknownOpcode (R77). `truncated` cannot
come of a whole word. -/
def runWord (w : Word) (s : State) : Host.Outcome State Fault Refusal :=
  match decodeWord s.params.strict59 w with
  | .ok i => exec i s
  | .error _ => raise (.unknownOpcode w) s

/-- Fetch and run; a fetch outside memory raises OutOfRange (R71). -/
def fetchRun (s : State) : Host.Outcome State Fault Refusal :=
  match fetch s with
  | .ok w => runWord w s
  | .error e => raise e s

/-- The step's inputs are used up, whatever the instruction made of them (R250; log 4). -/
def withInputsUsed : Host.Outcome State Fault Refusal → Host.Outcome State Fault Refusal
  | .next t => .next t.endStep
  | .fault f => .fault f
  | .refused r => .refused r

/-- Step (R70): a stopped core takes no step; otherwise one cycle. -/
def cycle (s : State) : Host.Outcome State Fault Refusal :=
  match s.fault with
  | some c => .fault (.stopped c)
  | none => withInputsUsed (fetchRun s.beginStep)

end Sys2Proof.Machine
end

