-- ==== Sys2Proof/Machine/Step.lean ====
section
/-! DEFINITION. The step of the machine, and a word placed where it fetches. -/

namespace Sys2Proof.Machine

/-- One step of the core with the inputs its state holds (30_encoding.md R70). -/
def step (s : State) : Host.Outcome State Fault Refusal := cycle s

/-- The instruction of the opcode table whose bits are `w`, stored at PC. -/
def State.withFetchWord (s : State) (nbits w : Nat) : State := s.placeWord (tableWord nbits w)

end Sys2Proof.Machine
end

