-- ==== Sys2Proof/Machine/Ports.lean ====
section
/-! DEFINITION. The ports of the block (60_exceptions.md R250): everything the host can do to the core, between steps
only (R246, R252), and the run it makes (70_reset_and_hazards.md R262). -/

namespace Sys2Proof.Machine

/-! ### Reset and launch -/

/-- `loadFontSet()` (R260): the font's 80 bytes at 0. -/
def loadFontSet (f : Vector Byte 80) (m : Memory) : Memory := m.writeList 0 f.toList

/-- The reset state of a machine with the given parameters (R260). With the default ones it is `State.reset`. -/
def State.resetWith (p : Params) : State :=
  { State.reset with mem := loadFontSet p.font [], params := p }

/-- Reset (R250): the reset state of this machine. What the host has queued and the draws go on (log 5). -/
def portReset (s : State) : State :=
  { State.resetWith s.params with inputs := s.inputs, draws := s.draws }

/-- The largest program: 4096 - 0x200 bytes (R261). -/
def maxProgram : Nat := memSize - progBase

/-- LoadProgram(bytes) (R261): the bytes at 0x200 on; a length outside [1, 3584] is refused (D25). -/
def loadProgram (bs : List Byte) (s : State) : Option State :=
  if 1 ≤ bs.length ∧ bs.length ≤ maxProgram then some (s.setMem (s.mem.writeList progBase bs)) else none

/-- A machine with given parameters at the start of a run: Reset, then LoadProgram once (R262). -/
def launch (p : Params) (bs : List Byte) : Option State := loadProgram bs (State.resetWith p)

/-! ### Step, timers, framebuffer and tone -/

/-- The host drives the key lines and the random byte of the next step (R250). -/
def State.present (s : State) (keys : Keys) (rnd : Byte) : State :=
  { s with inputs := ⟨keys, rnd⟩ :: s.inputs }

/-- Step(keys, rnd) (R70, R250): the state after it and the step result. A stopped core is unchanged. -/
def portStep (keys : Keys) (rnd : Byte) (s : State) : State × StepResult :=
  match step (s.present keys rnd) with
  | .next t => (t, t.result)
  | .fault (.stopped _) => (s, .stopped)
  | .refused _ => (s, .refused)

/-- A countdown that stops at 0 (R245, D15). -/
def countDown (b : Byte) : Byte := if b = 0 then 0 else b - 1

/-- DecrementDelayTimer (R245). -/
def decrementDelayTimer (s : State) : State := s.setDt (countDown s.dt)

/-- DecrementSoundTimer (R245). -/
def decrementSoundTimer (s : State) : State := s.setSt (countDown s.st)

/-- FbGet(x, y) (R36, R250): an error goes to the host and does not set `fault` (D28). -/
def portFbGet (x y : Nat) (s : State) : Except Err Bool := fbGet s.fb x y

/-- The tone line: ST != 0 (R247). -/
def tone (s : State) : Bool := s.st != 0

/-! ### Histories -/

/-- One use of a port (R250). -/
inductive HostEvent where
  | reset
  | loadProgram (bs : List Byte)
  | step (keys : Keys) (rnd : Byte)
  | decrementDelayTimer
  | decrementSoundTimer
  | fbGet (x y : Nat)
  | readTone
deriving DecidableEq, Repr

/-- What the host gets back from one use of a port. -/
inductive Response where
  | done
  | launchRefused
  | stepResult (r : StepResult)
  | pixel (r : Except Err Bool)
  | toneLine (b : Bool)

/-- One use of a port: the state after it, and the response. -/
def act (s : State) : HostEvent → State × Response
  | .reset => (portReset s, .done)
  | .loadProgram bs =>
    match loadProgram bs s with
    | some t => (t, .done)
    | none => (s, .launchRefused)
  | .step keys rnd => ((portStep keys rnd s).1, .stepResult (portStep keys rnd s).2)
  | .decrementDelayTimer => (Sys2Proof.Machine.decrementDelayTimer s, .done)
  | .decrementSoundTimer => (Sys2Proof.Machine.decrementSoundTimer s, .done)
  | .fbGet x y => (s, .pixel (portFbGet x y s))
  | .readTone => (s, .toneLine (tone s))

/-- The state after a history of port uses, in any interleaving the host likes (R252). -/
def history (s : State) : List HostEvent → State
  | [] => s
  | e :: es => history (act s e).1 es

end Sys2Proof.Machine
end

