-- ==== Sys2Proof/Safety.lean ====
section
/-! DEFINITION. The terms claims are stated in: which words encode an instruction, the invariant of the core, the
error table (60_exceptions.md R231) and the program-counter policy (30_encoding.md R78) as functions, and which
states a program cannot tell apart. -/

namespace Sys2Proof.Machine

/-- Every word that a row of R84 selects decodes to the instruction `f` reads from its fields. -/
def Encoded (mask pattern : Word) (f : Word → Instr) : Prop :=
  ∀ (strict : Bool) (w : Word), w &&& mask = pattern → decodeWord strict w = .ok (f w)

/-- What every state reached from reset through the ports satisfies: memory in canonical form, PC at most 0x10FE
(R27), I below 2^16 unless I_ADD_WIDTH is unbounded (R25, R142), every slot the address of a fetched CALL or 0
(R27, R33), and `fault` the code of the last step's result (R38, R236). -/
structure Inv (s : State) : Prop where
  mem_wf : s.mem.wf
  pc_le : s.pc.toNat ≤ 0x10FE
  i_lt : s.params.iAddWidth ≠ .unbounded → s.i < 2 ^ 16
  slot_le : ∀ (k : Nat) (h : k < 16), s.stack[k].toNat ≤ 0xFFE
  fault_eq : s.fault = s.result.faultCode
  not_stopped : s.result ≠ .stopped

/-- A successful end of a run (R239): at a JP to its own address with no fault. -/
def AtIdleLoop (s : State) : Prop :=
  s.fault = none ∧ ∃ w nnn, fetch s = .ok w ∧ decodeWord s.params.strict59 w = .ok (.jp nnn) ∧
    nnn.toNat = s.pc.toNat

/-- The slot RET pops: S[SP - 1]. -/
def State.topSlot (s : State) : Word := s.stack[s.sp.val - 1]

/-- The error table R231: which error an instruction raises in a state, with its info. The address reported is the
first one outside memory. -/
def specErr (i : Instr) (s : State) : Option Err :=
  match i with
  | .ret =>
    if s.sp.val = 0 then some .stackUnderflow
    else if 4096 ≤ s.topSlot.toNat then some (.outOfRange s.topSlot.toNat) else none
  | .call _ =>
    if s.sp.val = 16 then some (.stackOverflow s.pc.toNat)
    else if 4096 ≤ s.pc.toNat then some (.outOfRange s.pc.toNat) else none
  | .drw _ _ n =>
    if n.toNat = 0 then some (.invalidSpriteHeight 0)
    else if 4096 < s.i + n.toNat then some (.outOfRange (max s.i 4096)) else none
  | .skp x | .sknp x | .ldFVx x =>
    if 15 < (s.getV x).toNat then some (.valueExceedsNibble (s.getV x).toNat) else none
  | .ldBVx _ => if 4096 ≤ s.i + 2 then some (.outOfRange (max s.i 4096)) else none
  | .ldMemVx x | .ldVxMem x => if 4096 ≤ s.i + x.val then some (.outOfRange (max s.i 4096)) else none
  | .cls | .sys _ | .jp _ | .seVxNn _ _ | .sneVxNn _ _ | .seVxVy _ _ _ | .ldVxNn _ _ | .addVxNn _ _
  | .ldVxVy _ _ | .orVxVy _ _ | .andVxVy _ _ | .xorVxVy _ _ | .addVxVy _ _ | .subVxVy _ _ | .shr _ _
  | .subn _ _ | .shl _ _ | .sneVxVy _ _ _ | .ldINnn _ | .jpV0Nnn _ | .rnd _ _ | .ldVxDt _ | .ldVxK _
  | .ldDtVx _ | .ldStVx _ | .addIVx _ => none

/-- SYS under SYS_MODE = refuse is the one refused instruction (R241). -/
def specRefused (i : Instr) (s : State) : Bool :=
  match i with
  | .sys _ => s.params.sysMode == .refuse
  | .cls | .ret | .jp _ | .call _ | .seVxNn _ _ | .sneVxNn _ _ | .seVxVy _ _ _ | .ldVxNn _ _ | .addVxNn _ _
  | .ldVxVy _ _ | .orVxVy _ _ | .andVxVy _ _ | .xorVxVy _ _ | .addVxVy _ _ | .subVxVy _ _ | .shr _ _
  | .subn _ _ | .shl _ _ | .sneVxVy _ _ _ | .ldINnn _ | .jpV0Nnn _ | .rnd _ _ | .drw _ _ _ | .skp _
  | .sknp _ | .ldVxDt _ | .ldVxK _ | .ldDtVx _ | .ldStVx _ | .addIVx _ | .ldFVx _ | .ldBVx _ | .ldMemVx _
  | .ldVxMem _ => false

/-- The program-counter policy R78 as a number, for an instruction that raises nothing. -/
def specPc (i : Instr) (s : State) : Nat :=
  match i with
  | .jp nnn | .call nnn => nnn.toNat
  | .jpV0Nnn nnn =>
    if s.params.bnnnMask = .mask12 then (nnn.toNat + (s.getV 0).toNat) % 4096 else nnn.toNat + (s.getV 0).toNat
  | .ret => s.topSlot.toNat + if s.params.retAdvance = .plus2 then 2 else 0
  | .seVxNn x nn => s.pc.toNat + if s.getV x = nn then 4 else 2
  | .sneVxNn x nn => s.pc.toNat + if s.getV x ≠ nn then 4 else 2
  | .seVxVy x y _ => s.pc.toNat + if s.getV x = s.getV y then 4 else 2
  | .sneVxVy x y _ => s.pc.toNat + if s.getV x ≠ s.getV y then 4 else 2
  | .skp x => s.pc.toNat + if ∃ k : Fin 16, (s.getV x).toNat = k.val ∧ s.keyDown k = true then 4 else 2
  | .sknp x => s.pc.toNat + if ∃ k : Fin 16, (s.getV x).toNat = k.val ∧ s.keyDown k = false then 4 else 2
  | .ldVxK _ => s.pc.toNat + if ∃ k : Fin 16, s.keyDown k = true then 2 else 0
  | .cls | .sys _ | .ldVxNn _ _ | .addVxNn _ _ | .ldVxVy _ _ | .orVxVy _ _ | .andVxVy _ _ | .xorVxVy _ _
  | .addVxVy _ _ | .subVxVy _ _ | .shr _ _ | .subn _ _ | .shl _ _ | .ldINnn _ | .rnd _ _ | .drw _ _ _
  | .ldVxDt _ | .ldDtVx _ | .ldStVx _ | .addIVx _ | .ldFVx _ | .ldBVx _ | .ldMemVx _ | .ldVxMem _ =>
    s.pc.toNat + 2

/-- The words that raise UnknownOpcode (R79): an unused n of family 8, an unused nn of family E or F, and under
STRICT_5_9 a non-zero n of family 5 or 9. -/
def IllegalWord (strict : Bool) (w : Word) : Prop :=
  (famField w = 0x8 ∧ nField w ∈ [0x8#4, 0x9#4, 0xA#4, 0xB#4, 0xC#4, 0xD#4, 0xF#4]) ∨
  (famField w = 0xE ∧ nnField w ∉ [0x9E#8, 0xA1#8]) ∨
  (famField w = 0xF ∧ nnField w ∉ [0x07#8, 0x0A#8, 0x15#8, 0x18#8, 0x1E#8, 0x29#8, 0x33#8, 0x55#8, 0x65#8]) ∨
  (strict = true ∧ (famField w = 0x5 ∨ famField w = 0x9) ∧ nField w ≠ 0)

/-- Two states that differ at most in slots at or above SP, which nothing reads (R31). -/
def AgreeOnLiveSlots (s t : State) : Prop :=
  t = { s with stack := t.stack } ∧ ∀ (k : Nat) (h : k < 16), k < s.sp.val → s.stack[k] = t.stack[k]

/-- The instructions that read the inputs of a step (R250). -/
def readsInputs : Instr → Bool
  | .rnd _ _ | .skp _ | .sknp _ | .ldVxK _ => true
  | .cls | .ret | .sys _ | .jp _ | .call _ | .seVxNn _ _ | .sneVxNn _ _ | .seVxVy _ _ _ | .ldVxNn _ _
  | .addVxNn _ _ | .ldVxVy _ _ | .orVxVy _ _ | .andVxVy _ _ | .xorVxVy _ _ | .addVxVy _ _ | .subVxVy _ _
  | .shr _ _ | .subn _ _ | .shl _ _ | .sneVxVy _ _ _ | .ldINnn _ | .jpV0Nnn _ | .drw _ _ _ | .ldVxDt _
  | .ldDtVx _ | .ldStVx _ | .addIVx _ | .ldFVx _ | .ldBVx _ | .ldMemVx _ | .ldVxMem _ => false

/-- The instructions that can change state before their failing check (R237). -/
def hasPartialEffect : Instr → Bool
  | .ldBVx _ | .ldMemVx _ | .ldVxMem _ => true
  | .cls | .ret | .sys _ | .jp _ | .call _ | .seVxNn _ _ | .sneVxNn _ _ | .seVxVy _ _ _ | .ldVxNn _ _
  | .addVxNn _ _ | .ldVxVy _ _ | .orVxVy _ _ | .andVxVy _ _ | .xorVxVy _ _ | .addVxVy _ _ | .subVxVy _ _
  | .shr _ _ | .subn _ _ | .shl _ _ | .sneVxVy _ _ _ | .ldINnn _ | .jpV0Nnn _ | .rnd _ _ | .drw _ _ _
  | .skp _ | .sknp _ | .ldVxDt _ | .ldVxK _ | .ldDtVx _ | .ldStVx _ | .addIVx _ | .ldFVx _ => false

/-- `t` is `s` but for the general registers, I, PC, the fault record and the result port: what an instruction of
families 41, 42 (loads) and 45 may touch. -/
def SameStores (s t : State) : Prop :=
  (∀ a, t.mem.read a = s.mem.read a) ∧ t.fb = s.fb ∧ t.stack = s.stack ∧ t.sp = s.sp

/-- The model's own fields besides the result port: no instruction changes them. -/
def SameHost (s t : State) : Prop :=
  t.params = s.params ∧ t.inputs = s.inputs ∧ t.draws = s.draws

end Sys2Proof.Machine
end

