-- ==== Sys2Proof/Certificates/Slice0/Obligations.lean ====
section
/-! DEFINITION. The statements for the provers. -/

open Sys2Proof Sys2Proof.Machine

/-! ### Reset and the step -/

/-- R260, R24, R34: what reset leaves, for every value of the parameters. The zeros of DT, ST and the slots are the
spec's own decision D16, and `fault` = none is D17. -/
def Obligations.ResetLeavesSpecifiedState : Prop :=
  (∀ p : Params,
    (∀ r : Fin 16, (State.resetWith p).v[r.val] = 0) ∧ (State.resetWith p).i = 0 ∧
    (State.resetWith p).pc = 0x200 ∧ (State.resetWith p).dt = 0 ∧ (State.resetWith p).st = 0 ∧
    (State.resetWith p).sp = 0 ∧ (∀ k : Fin 16, (State.resetWith p).stack[k.val] = 0) ∧
    (∀ x y, (State.resetWith p).fb.pixel x y = false) ∧ (State.resetWith p).fault = none ∧
    (State.resetWith p).params = p ∧
    (∀ (a : Nat) (h : a < 80), (State.resetWith p).mem.read a = p.font[a]) ∧
    (∀ a, 80 ≤ a → a < 4096 → (State.resetWith p).mem.read a = 0)) ∧
  State.resetWith defaultParams = State.reset

/-- R71: the two bytes at PC, big-endian; a fetch outside memory raises OutOfRange with the address that failed and
changes no state of the core but `fault`. -/
def Obligations.FetchIsBigEndianAndBounded : Prop :=
  ∀ s : State,
    (s.pc.toNat + 1 < 4096 →
      fetch s = .ok (BitVec.ofNat 16 ((s.mem.read s.pc.toNat).toNat * 256 + (s.mem.read (s.pc.toNat + 1)).toNat))) ∧
    ((∃ w, fetch s = .ok w) ↔ s.pc.toNat ≤ 4094) ∧
    (s.fault = none → 4096 ≤ s.pc.toNat →
      step s = .next { s with fault := some .outOfRange, result := .err (.outOfRange s.pc.toNat),
                              inputs := s.inputs.tail, draws := s.draws + 1 }) ∧
    (s.fault = none → s.pc.toNat = 4095 →
      step s = .next { s with fault := some .outOfRange, result := .err (.outOfRange 4096),
                              inputs := s.inputs.tail, draws := s.draws + 1 })

/-- R70: on a running core, when the bytes at PC decode to `i`, the step is the execution of `i`, begun with Ok on the
result port (log 2); the inputs of the step are used up (log 4). -/
def Obligations.StepRunsDecodedInstruction : Prop :=
  ∀ (s : State) (i : Instr), s.fault = none → s.pc.toNat + 1 < 4096 →
    decodeWord s.params.strict59
      (BitVec.ofNat 16 ((s.mem.read s.pc.toNat).toNat * 256 + (s.mem.read (s.pc.toNat + 1)).toNat)) = .ok i →
    ∀ t, exec i { s with result := .ok } = .next t →
      step s = .next { t with inputs := t.inputs.tail, draws := t.draws + 1 }

/-- R38, R70 and decision D17: a core whose `fault` is set takes no step (the model answers its fault
`stopped`, log 1), its state is unchanged, and only then does a step answer anything but a next state. -/
def Obligations.OnlyStoppedCoreTakesNoStep : Prop :=
  ∀ (s : State) (keys : Keys) (rnd : Byte),
    (∀ c, s.fault = some c → step s = .fault (.stopped c) ∧ portStep keys rnd s = (s, .stopped)) ∧
    (s.fault = none → ∃ t, step s = .next t ∧ t.fault = t.result.faultCode ∧ t.result ≠ .stopped)

/-- R77, R79, R85: exactly the illegal words decode to nothing; fetched on a running core such a word raises
UnknownOpcode, PC stays at the word, and no state of the core but `fault` changes. -/
def Obligations.IllegalWordsRaiseUnknownOpcode : Prop :=
  (∀ (strict : Bool) (w : Word),
    (IllegalWord strict w → decodeWord strict w = .error (.unknownOpcode w)) ∧
    (¬ IllegalWord strict w → ∃ i, decodeWord strict w = .ok i)) ∧
  (∀ (s : State) (w : Word), s.fault = none → fetch s = .ok w → IllegalWord s.params.strict59 w →
    step s = .next { s with fault := some .unknownOpcode, result := .err (.unknownOpcode w),
                            inputs := s.inputs.tail, draws := s.draws + 1 })

/-! ### Encoding -/

/-- R84: the rows tried in order select the instruction, and a word that matches no row raises UnknownOpcode. -/
def Obligations.DecodeFollowsOpcodeTable : Prop :=
  ∀ (strict : Bool) (w : Word),
    match (opcodeTable strict).find? (fun r => decide (w &&& r.mask = r.pattern)) with
    | some r => ∃ i, decodeWord strict w = .ok i ∧ i.mnemonic = r.mnemonic
    | none => decodeWord strict w = .error (.unknownOpcode w) ∧
        ∀ s : State, s.fault = none → s.params.strict59 = strict → fetch s = .ok w →
          ∃ t, step s = .next t ∧ t.result = .err (.unknownOpcode w)

/-- R73, R84: decoding the word of a well-formed instruction gives it back, from its bytes in memory order too,
whatever follows them. -/
def Obligations.DecodeInvertsEncode : Prop :=
  ∀ (strict : Bool) (i : Instr), i.wellFormed strict = true →
    decodeWord strict (encode i) = .ok i ∧
    ∀ rest, decodeBytes strict (bytesOfWord (encode i) ++ rest) = .ok (i, rest)

/-- R72, R73: a decoded instruction is well formed and its word is the word it came from, so no bit is dropped. -/
def Obligations.EncodeInvertsDecode : Prop :=
  ∀ (strict : Bool) (w : Word) (i : Instr), decodeWord strict w = .ok i →
    i.wellFormed strict = true ∧ encode i = w

/-- Words written out from the patterns of R84. -/
def Obligations.SampleWordsDecode : Prop :=
  decodeWord false 0x00E0 = .ok .cls ∧ decodeWord false 0x01E0 = .ok (.sys 0x1E0) ∧
  decodeWord false 0x2ABC = .ok (.call 0xABC) ∧ decodeWord false 0x6342 = .ok (.ldVxNn 3 0x42) ∧
  decodeWord false 0x8AB5 = .ok (.subVxVy 10 11) ∧ decodeWord false 0xD12F = .ok (.drw 1 2 15) ∧
  decodeWord false 0xE3A1 = .ok (.sknp 3) ∧ decodeWord false 0xF265 = .ok (.ldVxMem 2)

/-! ### Arithmetic and logic -/

/-- R102, R104. -/
def Obligations.LoadRegisterStoresValue : Prop :=
  Encoded 0xF000 0x6000 (fun w => .ldVxNn (xReg w) (nnField w)) ∧
  Encoded 0xF00F 0x8000 (fun w => .ldVxVy (xReg w) (yReg w)) ∧
  ∀ (x y : Reg) (nn : Byte) (s : State),
    exec (.ldVxNn x nn) s = .next { s with v := s.v.set x.val nn, pc := s.pc + 2 } ∧
    exec (.ldVxVy x y) s = .next { s with v := s.v.set x.val s.v[y.val], pc := s.pc + 2 }

/-- R103; that VF is no carry here is decision D7. -/
def Obligations.AddImmediateWrapsWithoutFlag : Prop :=
  Encoded 0xF000 0x7000 (fun w => .addVxNn (xReg w) (nnField w)) ∧
  ∀ (x : Reg) (nn : Byte) (s : State),
    exec (.addVxNn x nn) s = .next { s with
      v := s.v.set x.val (BitVec.ofNat 8 ((s.v[x.val].toNat + nn.toNat) % 256)), pc := s.pc + 2 }

/-- R105, R106, R107; that VF is unchanged is decision D6. -/
def Obligations.BitwiseOpsCombineBits : Prop :=
  Encoded 0xF00F 0x8001 (fun w => .orVxVy (xReg w) (yReg w)) ∧
  Encoded 0xF00F 0x8002 (fun w => .andVxVy (xReg w) (yReg w)) ∧
  Encoded 0xF00F 0x8003 (fun w => .xorVxVy (xReg w) (yReg w)) ∧
  ∀ (x y : Reg) (s : State),
    (∃ t, exec (.orVxVy x y) s = .next t ∧ t = { s with v := s.v.set x.val t.v[x.val], pc := s.pc + 2 } ∧
      ∀ k, k < 8 → t.v[x.val].getLsbD k = (s.v[x.val].getLsbD k || s.v[y.val].getLsbD k)) ∧
    (∃ t, exec (.andVxVy x y) s = .next t ∧ t = { s with v := s.v.set x.val t.v[x.val], pc := s.pc + 2 } ∧
      ∀ k, k < 8 → t.v[x.val].getLsbD k = (s.v[x.val].getLsbD k && s.v[y.val].getLsbD k)) ∧
    (∃ t, exec (.xorVxVy x y) s = .next t ∧ t = { s with v := s.v.set x.val t.v[x.val], pc := s.pc + 2 } ∧
      ∀ k, k < 8 → t.v[x.val].getLsbD k = (s.v[x.val].getLsbD k ^^ s.v[y.val].getLsbD k))

/-- R108. With x = F the flag stays: the spec's decision D5, as R108 itself says. -/
def Obligations.AddRegistersSetsCarry : Prop :=
  Encoded 0xF00F 0x8004 (fun w => .addVxVy (xReg w) (yReg w)) ∧
  ∀ (x y : Reg) (s : State),
    exec (.addVxVy x y) s = .next { s with
      v := (s.v.set x.val (BitVec.ofNat 8 ((s.v[x.val].toNat + s.v[y.val].toNat) % 256))).set 15
        (if s.v[x.val].toNat + s.v[y.val].toNat > 255 then 1 else 0),
      pc := s.pc + 2 }

/-- R109, R111, for both values of SUB_FLAG_POLARITY. With x = F the flag stays: decision D5. -/
def Obligations.SubtractSetsFlagByPolarity : Prop :=
  Encoded 0xF00F 0x8005 (fun w => .subVxVy (xReg w) (yReg w)) ∧
  Encoded 0xF00F 0x8007 (fun w => .subn (xReg w) (yReg w)) ∧
  ∀ (x y : Reg) (s : State) (a b : Nat), a = s.v[x.val].toNat → b = s.v[y.val].toNat →
    exec (.subVxVy x y) s = .next { s with
      v := (s.v.set x.val (BitVec.ofNat 8 ((a + 256 - b) % 256))).set 15
        (if s.params.subFlagPolarity = .notBorrow then (if a ≥ b then 1 else 0) else (if a < b then 1 else 0)),
      pc := s.pc + 2 } ∧
    exec (.subn x y) s = .next { s with
      v := (s.v.set x.val (BitVec.ofNat 8 ((b + 256 - a) % 256))).set 15
        (if s.params.subFlagPolarity = .notBorrow then (if b ≥ a then 1 else 0) else (if b < a then 1 else 0)),
      pc := s.pc + 2 }

/-- R110, R112: y has no effect. With x = F the flag stays: decision D5. -/
def Obligations.ShiftsMoveOneBitIntoFlag : Prop :=
  Encoded 0xF00F 0x8006 (fun w => .shr (xReg w) (yReg w)) ∧
  Encoded 0xF00F 0x800E (fun w => .shl (xReg w) (yReg w)) ∧
  ∀ (x y : Reg) (s : State),
    exec (.shr x y) s = .next { s with
      v := (s.v.set x.val (s.v[x.val] >>> 1)).set 15 (if s.v[x.val].getLsbD 0 then 1 else 0), pc := s.pc + 2 } ∧
    exec (.shl x y) s = .next { s with
      v := (s.v.set x.val (s.v[x.val] <<< 1)).set 15 (if s.v[x.val].getLsbD 7 then 1 else 0), pc := s.pc + 2 }

/-- R113: the random byte of the step and nn, whatever that byte is; on the Step port it is the host's byte. -/
def Obligations.RandomIsAndedWithImmediate : Prop :=
  Encoded 0xF000 0xC000 (fun w => .rnd (xReg w) (nnField w)) ∧
  ∀ (x : Reg) (nn : Byte) (s : State),
    exec (.rnd x nn) s = .next { s with v := s.v.set x.val (s.rnd &&& nn), pc := s.pc + 2 } ∧
    ∀ (keys : Keys) (r : Byte), (s.present keys r).rnd = r

/-! ### Index register and memory -/

/-- R141. -/
def Obligations.LoadIndexZeroExtends : Prop :=
  Encoded 0xF000 0xA000 (fun w => .ldINnn (nnnField w)) ∧
  ∀ (nnn : Addr12) (s : State),
    exec (.ldINnn nnn) s = .next { s with i := nnn.toNat, pc := s.pc + 2 } ∧ nnn.toNat < 4096

/-- R142, for each I_ADD_WIDTH; that VF is not written is decision D8. -/
def Obligations.AddIndexWrapsAtWidth : Prop :=
  Encoded 0xF0FF 0xF01E (fun w => .addIVx (xReg w)) ∧
  ∀ (x : Reg) (s : State) (sum : Nat), sum = s.i + s.v[x.val].toNat →
    exec (.addIVx x) s = .next { s with
      i := if s.params.iAddWidth = .unbounded then sum
           else if s.params.iAddWidth = .w16 then sum % 65536 else sum % 4096,
      pc := s.pc + 2 }

/-- R143: I = 5 x digit; above 15 ValueExceedsNibble, with I and PC unchanged. -/
def Obligations.FontLookupPointsAtGlyph : Prop :=
  Encoded 0xF0FF 0xF029 (fun w => .ldFVx (xReg w)) ∧
  ∀ (x : Reg) (s : State),
    (s.v[x.val].toNat ≤ 15 →
      exec (.ldFVx x) s = .next { s with i := s.v[x.val].toNat * 5, pc := s.pc + 2 }) ∧
    (15 < s.v[x.val].toNat →
      exec (.ldFVx x) s = .next { s with fault := some .valueExceedsNibble,
                                         result := .err (.valueExceedsNibble s.v[x.val].toNat) })

/-- R144: hundreds, tens and units at I, I+1, I+2; if one of them lies outside memory, OutOfRange for the first that
does, and the digits before it stay, which is decision D17 (log 14). I is unchanged. -/
def Obligations.BcdStoresDecimalDigits : Prop :=
  Encoded 0xF0FF 0xF033 (fun w => .ldBVx (xReg w)) ∧
  ∀ (x : Reg) (s : State) (v : Nat), v = s.v[x.val].toNat →
    ∃ t, exec (.ldBVx x) s = .next t ∧
      (∀ a, t.mem.read a =
        if 4096 ≤ a then s.mem.read a
        else if a = s.i then BitVec.ofNat 8 (v / 100)
        else if a = s.i + 1 then BitVec.ofNat 8 (v / 10 % 10)
        else if a = s.i + 2 then BitVec.ofNat 8 (v % 10)
        else s.mem.read a) ∧
      (s.i + 2 < 4096 → t = { s with mem := t.mem, pc := s.pc + 2 }) ∧
      (4096 ≤ s.i + 2 → t = { s with mem := t.mem, fault := some .outOfRange,
                                     result := .err (.outOfRange (max s.i 4096)) })

/-- R145: V0 to Vx at I, I+1, ..., I+x; a failing store raises OutOfRange and the stores before it stay, which is
decision D17 (log 14); I moves past the range only under LDST_INCREMENTS_I. -/
def Obligations.StoreRegistersWritesRange : Prop :=
  Encoded 0xF0FF 0xF055 (fun w => .ldMemVx (xReg w)) ∧
  ∀ (x : Reg) (s : State),
    ∃ t, exec (.ldMemVx x) s = .next t ∧
      (∀ r : Reg, r ≤ x → s.i + r.val < 4096 → t.mem.read (s.i + r.val) = s.v[r.val]) ∧
      (∀ a, (¬ ∃ r : Reg, r ≤ x ∧ a = s.i + r.val ∧ a < 4096) → t.mem.read a = s.mem.read a) ∧
      (s.i + x.val < 4096 →
        t = { s with mem := t.mem, pc := s.pc + 2,
                     i := if s.params.ldstIncrementsI then (s.i + x.val + 1) % 65536 else s.i }) ∧
      (4096 ≤ s.i + x.val →
        t = { s with mem := t.mem, fault := some .outOfRange, result := .err (.outOfRange (max s.i 4096)) })

/-- R146: V0 to Vx from I, I+1, ..., I+x; a failing read raises OutOfRange and the registers before it keep their new
values, which is decision D17 (log 14); no memory changes. -/
def Obligations.LoadRegistersReadsRange : Prop :=
  Encoded 0xF0FF 0xF065 (fun w => .ldVxMem (xReg w)) ∧
  ∀ (x : Reg) (s : State),
    ∃ t, exec (.ldVxMem x) s = .next t ∧
      (∀ r : Reg, t.v[r.val] =
        if r ≤ x ∧ s.i + r.val < 4096 then s.mem.read (s.i + r.val) else s.v[r.val]) ∧
      (s.i + x.val < 4096 →
        t = { s with v := t.v, pc := s.pc + 2,
                     i := if s.params.ldstIncrementsI then (s.i + x.val + 1) % 65536 else s.i }) ∧
      (4096 ≤ s.i + x.val →
        t = { s with v := t.v, fault := some .outOfRange, result := .err (.outOfRange (max s.i 4096)) })

/-! ### Control flow -/

/-- R161, R241, for both values of SYS_MODE. Under refuse the effect is `fault <- Refused` and nothing else. -/
def Obligations.SysIsRefusedOrNop : Prop :=
  (∀ (strict : Bool) (w : Word), w &&& 0xF000 = 0 → w ≠ 0x00E0 → w ≠ 0x00EE →
    decodeWord strict w = .ok (.sys (nnnField w))) ∧
  ∀ (nnn : Addr12) (s : State),
    (s.params.sysMode = .refuse →
      exec (.sys nnn) s = .next { s with fault := some .refused, result := .refused }) ∧
    (s.params.sysMode = .nop → exec (.sys nnn) s = .next { s with pc := s.pc + 2 })

/-- R162, for both values of RET_ADVANCE: StackUnderflow at SP = 0 with PC and SP unchanged, else SP one lower and PC
at the popped address (+ 2). In a state of the invariant the popped slot is inside memory. -/
def Obligations.ReturnResumesAtPoppedAddress : Prop :=
  Encoded 0xFFFF 0x00EE (fun _ => .ret) ∧
  ∀ s : State,
    (s.sp.val = 0 →
      exec .ret s = .next { s with fault := some .stackUnderflow, result := .err .stackUnderflow }) ∧
    (∀ k : Fin 16, s.sp.val = k.val + 1 → s.stack[k.val].toNat < 4096 →
      ∃ t, exec .ret s = .next t ∧ t.sp.val = k.val ∧
        t = { s with sp := t.sp, pc := s.stack[k.val] + if s.params.retAdvance = .plus2 then 2 else 0 }) ∧
    (Inv s → ∀ k : Fin 16, s.stack[k.val].toNat < 4096)

/-- R163, R169, for both values of BNNN_MASK. -/
def Obligations.JumpsSetAbsoluteTarget : Prop :=
  Encoded 0xF000 0x1000 (fun w => .jp (nnnField w)) ∧
  Encoded 0xF000 0xB000 (fun w => .jpV0Nnn (nnnField w)) ∧
  ∀ (nnn : Addr12) (s : State),
    (∃ t, exec (.jp nnn) s = .next t ∧ t = { s with pc := t.pc } ∧ t.pc.toNat = nnn.toNat) ∧
    (∃ t, exec (.jpV0Nnn nnn) s = .next t ∧ t = { s with pc := t.pc } ∧
      t.pc.toNat = if s.params.bnnnMask = .unmasked then nnn.toNat + s.v[0].toNat
                   else (nnn.toNat + s.v[0].toNat) % 4096)

/-- R164: its own address goes into slot SP; StackOverflow(PC) at SP = 16 with PC, SP and the stack unchanged; a
fetched CALL is at 0xFFE or below. -/
def Obligations.CallPushesItsOwnAddress : Prop :=
  Encoded 0xF000 0x2000 (fun w => .call (nnnField w)) ∧
  ∀ (nnn : Addr12) (s : State),
    (s.sp.val = 16 →
      exec (.call nnn) s = .next { s with fault := some .stackOverflow,
                                          result := .err (.stackOverflow s.pc.toNat) }) ∧
    (∀ k : Fin 16, s.sp.val = k.val → s.pc.toNat < 4096 →
      ∃ t, exec (.call nnn) s = .next t ∧ t.sp.val = k.val + 1 ∧ t.pc.toNat = nnn.toNat ∧
        t = { s with stack := s.stack.set k.val s.pc, sp := t.sp, pc := t.pc }) ∧
    (∀ w, fetch s = .ok w → s.pc.toNat ≤ 0xFFE)

/-- R165, R166. -/
def Obligations.SkipsOnImmediate : Prop :=
  Encoded 0xF000 0x3000 (fun w => .seVxNn (xReg w) (nnField w)) ∧
  Encoded 0xF000 0x4000 (fun w => .sneVxNn (xReg w) (nnField w)) ∧
  ∀ (x : Reg) (nn : Byte) (s : State),
    exec (.seVxNn x nn) s = .next { s with pc := if s.v[x.val] = nn then s.pc + 4 else s.pc + 2 } ∧
    exec (.sneVxNn x nn) s = .next { s with pc := if s.v[x.val] = nn then s.pc + 2 else s.pc + 4 }

/-- R167, R168, R85: n plays no part unless STRICT_5_9, when a non-zero n raises UnknownOpcode at decode. -/
def Obligations.SkipsOnRegisters : Prop :=
  (∀ w : Word,
    (w &&& 0xF000 = 0x5000 → decodeWord false w = .ok (.seVxVy (xReg w) (yReg w) (nField w))) ∧
    (w &&& 0xF000 = 0x9000 → decodeWord false w = .ok (.sneVxVy (xReg w) (yReg w) (nField w))) ∧
    (w &&& 0xF00F = 0x5000 → decodeWord true w = .ok (.seVxVy (xReg w) (yReg w) 0)) ∧
    (w &&& 0xF00F = 0x9000 → decodeWord true w = .ok (.sneVxVy (xReg w) (yReg w) 0)) ∧
    (w &&& 0xF000 = 0x5000 ∨ w &&& 0xF000 = 0x9000 → w &&& 0x000F ≠ 0 →
      decodeWord true w = .error (.unknownOpcode w))) ∧
  ∀ (x y : Reg) (n : Nibble) (s : State),
    exec (.seVxVy x y n) s =
      .next { s with pc := if s.v[x.val] = s.v[y.val] then s.pc + 4 else s.pc + 2 } ∧
    exec (.sneVxVy x y n) s =
      .next { s with pc := if s.v[x.val] = s.v[y.val] then s.pc + 2 else s.pc + 4 }

/-- R162, R164: a CALL and the RET that follows it restore SP; the RET resumes after the CALL under
RET_ADVANCE = plus2, and at it under none. -/
def Obligations.CallThenReturnRoundTrips : Prop :=
  ∀ (nnn : Addr12) (s : State), s.sp.val < 16 → s.pc.toNat < 4096 →
    ∃ t u, exec (.call nnn) s = .next t ∧ exec .ret t = .next u ∧ u.sp = s.sp ∧
      u.pc.toNat = s.pc.toNat + (if s.params.retAdvance = .plus2 then 2 else 0) ∧
      u = { s with stack := u.stack, pc := u.pc }

/-! ### Display -/

/-- R191. -/
def Obligations.ClearDisplayClearsEveryPixel : Prop :=
  Encoded 0xFFFF 0x00E0 (fun _ => .cls) ∧
  ∀ s : State, ∃ t, exec .cls s = .next t ∧ (∀ x y, t.fb.pixel x y = false) ∧
    t = { s with fb := t.fb, pc := s.pc + 2 }

/-- R192: each pixel is XORed with the sprite bit that lands on it, wrapping at the edges; VF = 1 exactly when a set
pixel was turned off; a height of 0 or a row outside memory raises its error and no pixel, VF or PC changes. -/
def Obligations.DrawXorsWrappedSprite : Prop :=
  Encoded 0xF000 0xD000 (fun w => .drw (xReg w) (yReg w) (nField w)) ∧
  ∀ (x y : Reg) (n : Nibble) (s : State),
    (n = 0 → exec (.drw x y n) s = .next { s with fault := some .invalidSpriteHeight,
                                                  result := .err (.invalidSpriteHeight 0) }) ∧
    (n ≠ 0 → 4096 < s.i + n.toNat →
      exec (.drw x y n) s = .next { s with fault := some .outOfRange,
                                           result := .err (.outOfRange (max s.i 4096)) }) ∧
    (n ≠ 0 → s.i + n.toNat ≤ 4096 →
      ∃ t, exec (.drw x y n) s = .next t ∧
        t = { s with fb := t.fb, v := s.v.set 15 t.v[15], pc := s.pc + 2 } ∧
        (∀ px py, px < 64 → py < 32 →
          ((t.fb.pixel px py ≠ s.fb.pixel px py) ↔
            ∃ r c, r < n.toNat ∧ c < 8 ∧ (s.mem.read (s.i + r)).getLsbD (7 - c) = true ∧
              (s.v[x.val].toNat + c) % 64 = px ∧ (s.v[y.val].toNat + r) % 32 = py)) ∧
        (t.v[15] = 1 ∨ t.v[15] = 0) ∧
        (t.v[15] = 1 ↔ ∃ px py, px < 64 ∧ py < 32 ∧ s.fb.pixel px py = true ∧ t.fb.pixel px py = false))

/-- R193 (b), (c): the same sprite drawn twice at the same coordinates (they move only where VF itself is a
coordinate) restores the framebuffer, and the second draw collides exactly when a set bit landed on a clear pixel at
the first; a pixel XORed with 1 twice is restored. -/
def Obligations.DrawTwiceRestoresFramebuffer : Prop :=
  (∀ (x y : Reg) (n : Nibble) (s : State), n ≠ 0 → s.i + n.toNat ≤ 4096 →
    ∃ t u, exec (.drw x y n) s = .next t ∧ exec (.drw x y n) t = .next u ∧
      (x ≠ 15 ∧ y ≠ 15 → t.v[x.val] = s.v[x.val] ∧ t.v[y.val] = s.v[y.val]) ∧
      (t.v[x.val] = s.v[x.val] → t.v[y.val] = s.v[y.val] →
        u.fb = s.fb ∧
        (u.v[15] = 1 ↔ ∃ r c, r < n.toNat ∧ c < 8 ∧ (s.mem.read (s.i + r)).getLsbD (7 - c) = true ∧
          s.fb.pixel ((s.v[x.val].toNat + c) % 64) ((s.v[y.val].toNat + r) % 32) = false))) ∧
  (∀ (f : Framebuffer) (x y : Nat), x < 64 → y < 32 →
    ∃ g off off', fbXor f x y true = .ok (g, off) ∧ fbXor g x y true = .ok (f, off') ∧
      (off = true ↔ f.pixel x y = true))

/-- R36: FbGet and FbXor inside the grid, OutOfRange outside it. That the host's FbGet, outside the grid too,
changes no state and so sets no fault is decision D28 (log 26). -/
def Obligations.FramebufferPrimitivesCheckBounds : Prop :=
  ∀ (s : State) (x y : Nat) (b : Bool),
    (x < 64 ∧ y < 32 → portFbGet x y s = .ok (s.fb.pixel x y) ∧
      ∃ g, fbXor s.fb x y b = .ok (g, s.fb.pixel x y && b) ∧
        g.pixel x y = (b ^^ s.fb.pixel x y) ∧
        ∀ x' y', (x', y') ≠ (x, y) → g.pixel x' y' = s.fb.pixel x' y') ∧
    (¬ (x < 64 ∧ y < 32) → portFbGet x y s = .error (.outOfRangePixel x y) ∧
      fbXor s.fb x y b = .error (.outOfRangePixel x y)) ∧
    (∀ x' y', Framebuffer.pixel fbClear x' y' = false) ∧ (act s (.fbGet x y)).1 = s

/-! ### Timers and keypad -/

/-- R211, R212, R213. -/
def Obligations.TimerLoadsMoveTimers : Prop :=
  Encoded 0xF0FF 0xF007 (fun w => .ldVxDt (xReg w)) ∧
  Encoded 0xF0FF 0xF015 (fun w => .ldDtVx (xReg w)) ∧
  Encoded 0xF0FF 0xF018 (fun w => .ldStVx (xReg w)) ∧
  ∀ (x : Reg) (s : State),
    exec (.ldVxDt x) s = .next { s with v := s.v.set x.val s.dt, pc := s.pc + 2 } ∧
    exec (.ldDtVx x) s = .next { s with dt := s.v[x.val], pc := s.pc + 2 } ∧
    ∃ t, exec (.ldStVx x) s = .next t ∧ t = { s with st := s.v[x.val], pc := s.pc + 2 } ∧
      (tone t = true ↔ s.v[x.val] ≠ 0)

/-- R214, R215: skip by the level of key Vx; a Vx above 15 raises ValueExceedsNibble. The key input and that fault are
decision D13. -/
def Obligations.KeySkipsFollowKeyLevel : Prop :=
  Encoded 0xF0FF 0xE09E (fun w => .skp (xReg w)) ∧
  Encoded 0xF0FF 0xE0A1 (fun w => .sknp (xReg w)) ∧
  ∀ (x : Reg) (s : State),
    (∀ k : Fin 16, s.v[x.val].toNat = k.val →
      exec (.skp x) s = .next { s with pc := if s.keys[k.val] then s.pc + 4 else s.pc + 2 } ∧
      exec (.sknp x) s = .next { s with pc := if s.keys[k.val] then s.pc + 2 else s.pc + 4 }) ∧
    (15 < s.v[x.val].toNat →
      exec (.skp x) s = .next { s with fault := some .valueExceedsNibble,
                                       result := .err (.valueExceedsNibble s.v[x.val].toNat) } ∧
      exec (.sknp x) s = .next { s with fault := some .valueExceedsNibble,
                                        result := .err (.valueExceedsNibble s.v[x.val].toNat) }) ∧
    (∀ (keys : Keys) (r : Byte), (s.present keys r).keys = keys)

/-- R216 and decision D12: with no key down nothing changes, so the FX0A repeats; with keys down, one of them, and
PC + 2. Which one is a free value (log 22). -/
def Obligations.WaitForKeyRepeatsUntilKeyDown : Prop :=
  Encoded 0xF0FF 0xF00A (fun w => .ldVxK (xReg w)) ∧
  ∀ (x : Reg) (s : State),
    ((∀ k : Fin 16, s.keys[k.val] = false) → exec (.ldVxK x) s = .next s) ∧
    ((∃ k : Fin 16, s.keys[k.val] = true) →
      ∃ k : Fin 16, s.keys[k.val] = true ∧
        exec (.ldVxK x) s = .next { s with v := s.v.set x.val (BitVec.ofNat 8 k.val), pc := s.pc + 2 })

/-- R245 and decision D15, R247: a decrement stops at 0 and touches nothing else; the tone is ST != 0. -/
def Obligations.TimerDecrementsStopAtZero : Prop :=
  ∀ s : State,
    (∃ t, (act s .decrementDelayTimer).1 = t ∧ t = { s with dt := t.dt } ∧ t.dt.toNat = s.dt.toNat - 1) ∧
    (∃ t, (act s .decrementSoundTimer).1 = t ∧ t = { s with st := t.st } ∧ t.st.toNat = s.st.toNat - 1) ∧
    (tone s = true ↔ s.st.toNat ≠ 0)

/-- R28, R29: a step changes DT only by FX15 and ST only by FX18, to the value of Vx; it never decrements them. -/
def Obligations.OnlyTimerLoadsChangeTimers : Prop :=
  ∀ s t : State, step s = .next t →
    (t.dt ≠ s.dt → ∃ w x, fetch s = .ok w ∧ decodeWord s.params.strict59 w = .ok (.ldDtVx x) ∧ t.dt = s.v[x.val]) ∧
    (t.st ≠ s.st → ∃ w x, fetch s = .ok w ∧ decodeWord s.params.strict59 w = .ok (.ldStVx x) ∧ t.st = s.v[x.val])

/-! ### Errors -/

/-- R231 with R230's info: every instruction answers a next state in every state, with exactly the error of the table
on the result port and its code in `fault`. -/
def Obligations.EveryErrorIsInTheTable : Prop :=
  ∀ (i : Instr) (s : State), ∃ t, exec i s = .next t ∧
    t.result = (match specErr i s with
      | some e => .err e
      | none => if specRefused i s then .refused else s.result) ∧
    t.fault = (match specErr i s with
      | some e => some e.code
      | none => if specRefused i s then some .refused else s.fault)

/-- R78 with R236: an instruction that raises nothing sets PC by the policy; one that raises or is refused leaves PC. -/
def Obligations.PcFollowsAdvancePolicy : Prop :=
  ∀ (i : Instr) (s t : State), s.pc.toNat ≤ 4094 → exec i s = .next t →
    t.pc.toNat = if specErr i s = none ∧ specRefused i s = false then specPc i s else s.pc.toNat

/-- R232, R235, R236 and decision D17: after a step that raised or refused, PC holds the address of the failing
instruction, `fault` is the code of the result, and the core has stopped. -/
def Obligations.ErrorsArePreciseAndSticky : Prop :=
  ∀ s t : State, step s = .next t → t.fault ≠ none →
    t.pc = s.pc ∧ t.fault = t.result.faultCode ∧ (∃ c, step t = .fault (.stopped c) ∧ t.fault = some c)

/-- R237 and decision D17: but for FX33, FX55 and FX65 (and the check of a popped slot, which no run fails), an
instruction that raises or is refused changes nothing but `fault` and the result port. -/
def Obligations.ErrorsWithoutPartialEffects : Prop :=
  ∀ (i : Instr) (s t : State), Inv s → s.fault = none → s.result = .ok → hasPartialEffect i = false →
    exec i s = .next t → t.fault ≠ none → t = { s with fault := t.fault, result := t.result }

/-- R238, with the premise its argument needs: unless the failing step overwrote the two bytes of its own word, a
repeated step fails the same way. -/
def Obligations.RetryFailsTheSameWay : Prop :=
  ∀ (s t : State), Inv s → step s = .next t → t.fault ≠ none →
    t.mem.read s.pc.toNat = s.mem.read s.pc.toNat →
    t.mem.read (s.pc.toNat + 1) = s.mem.read (s.pc.toNat + 1) →
    ∃ u, step { t with fault := none } = .next u ∧ u.fault = t.fault ∧ u.result = t.result ∧ u.v = t.v ∧
      ∀ a, u.mem.read a = t.mem.read a

/-- R238 to the letter: a repeated step would fail the same way, with no premise on what the step stored. Expected to
fail: an FX33 or FX55 at 0xFFE with I = 0xFFE overwrites its own word before it fails at 0x1000. -/
def Obligations.RetryFailsTheSameWayAlways : Prop :=
  ∀ (s t : State), Inv s → step s = .next t → t.fault ≠ none →
    ∃ u, step { t with fault := none } = .next u ∧ u.fault = t.fault

/-- R27, R33, R52 and the rows of R231 marked unreachable: in a state of the invariant no step raises ValueOverflow or
a framebuffer OutOfRange, and neither RET nor CALL raises OutOfRange. -/
def Obligations.UnreachableErrorsNeverRaised : Prop :=
  ∀ (s t : State), Inv s → step s = .next t →
    (∀ v, t.result ≠ .err (.valueOverflow v)) ∧ (∀ x y, t.result ≠ .err (.outOfRangePixel x y)) ∧
    (∀ w i a, fetch s = .ok w → decodeWord s.params.strict59 w = .ok i →
      (i = .ret ∨ ∃ nnn, i = .call nnn) → t.result ≠ .err (.outOfRange a))

/-! ### Frames -/

/-- The twelve instructions of family 41, and FX07, FX0A: no register changes but Vx and, for 8XY4 to 8XY7 and 8XYE,
VF; nothing else changes but PC. -/
def Obligations.RegisterInstructionsFrame : Prop :=
  ∀ (x y : Reg) (nn : Byte) (s t : State),
    (∀ i ∈ [Instr.ldVxNn x nn, .addVxNn x nn, .ldVxVy x y, .orVxVy x y, .andVxVy x y, .xorVxVy x y,
            .rnd x nn, .ldVxDt x, .ldVxK x], exec i s = .next t →
      (∀ r : Reg, r ≠ x → t.v[r.val] = s.v[r.val]) ∧ t.i = s.i ∧ t.dt = s.dt ∧ t.st = s.st ∧
      SameStores s t ∧ t.fault = s.fault ∧ t.result = s.result ∧ SameHost s t) ∧
    (∀ i ∈ [Instr.addVxVy x y, .subVxVy x y, .shr x y, .subn x y, .shl x y], exec i s = .next t →
      (∀ r : Reg, r ≠ x → r ≠ 15 → t.v[r.val] = s.v[r.val]) ∧ t.i = s.i ∧ t.dt = s.dt ∧ t.st = s.st ∧
      SameStores s t ∧ t.fault = s.fault ∧ t.result = s.result ∧ SameHost s t)

/-- Control flow and the key skips write no general register (R160), no I, timer, pixel or byte of memory; only CALL
and RET change SP, and only CALL a slot, the one at SP. -/
def Obligations.ControlFlowFrame : Prop :=
  ∀ (x y : Reg) (n : Nibble) (nn : Byte) (nnn : Addr12) (s t : State),
    (∀ i ∈ [Instr.sys nnn, .ret, .jp nnn, .call nnn, .seVxNn x nn, .sneVxNn x nn, .seVxVy x y n,
            .sneVxVy x y n, .jpV0Nnn nnn, .skp x, .sknp x], exec i s = .next t →
      t.v = s.v ∧ t.i = s.i ∧ t.dt = s.dt ∧ t.st = s.st ∧ t.fb = s.fb ∧
      (∀ a, t.mem.read a = s.mem.read a) ∧ SameHost s t ∧
      (i ≠ .ret → i ≠ .call nnn → t.sp = s.sp) ∧ (i ≠ .call nnn → t.stack = s.stack) ∧
      (∀ (k : Nat) (h : k < 16), k ≠ s.sp.val → t.stack[k] = s.stack[k]))

/-- The index and memory instructions: every byte outside the bytes stored to reads as before (none are stored by
ANNN, FX1E, FX29 and FX65); no register changes but those FX65 loads; no timer, pixel, SP or slot changes; I changes
only by ANNN, FX1E, FX29 and, under LDST_INCREMENTS_I, FX55 and FX65. -/
def Obligations.IndexAndMemoryFrame : Prop :=
  ∀ (x : Reg) (nnn : Addr12) (s t : State),
    (∀ i ∈ [Instr.ldINnn nnn, .addIVx x, .ldFVx x, .ldVxMem x], exec i s = .next t →
      ∀ a, t.mem.read a = s.mem.read a) ∧
    (exec (.ldBVx x) s = .next t → ∀ a, ¬ (s.i ≤ a ∧ a ≤ s.i + 2) → t.mem.read a = s.mem.read a) ∧
    (exec (.ldMemVx x) s = .next t → ∀ a, ¬ (s.i ≤ a ∧ a ≤ s.i + x.val) → t.mem.read a = s.mem.read a) ∧
    (∀ i ∈ [Instr.ldINnn nnn, .addIVx x, .ldFVx x, .ldBVx x, .ldMemVx x, .ldVxMem x], exec i s = .next t →
      (∀ r : Reg, (i = .ldVxMem x → x < r) → t.v[r.val] = s.v[r.val]) ∧
      (i = .ldBVx x ∨ (i = .ldMemVx x ∨ i = .ldVxMem x) ∧ s.params.ldstIncrementsI = false → t.i = s.i) ∧
      t.dt = s.dt ∧ t.st = s.st ∧ t.fb = s.fb ∧ t.sp = s.sp ∧ t.stack = s.stack ∧ SameHost s t)

/-- CLS, DRW, FX15 and FX18: no byte of memory, slot, SP or I changes; only DRW changes a register, VF; only CLS and
DRW change a pixel; only FX15 changes DT and only FX18 ST. -/
def Obligations.DisplayAndTimerFrame : Prop :=
  ∀ (x y : Reg) (n : Nibble) (s t : State),
    (∀ i ∈ [Instr.cls, .drw x y n, .ldDtVx x, .ldStVx x], exec i s = .next t →
      (∀ a, t.mem.read a = s.mem.read a) ∧ t.sp = s.sp ∧ t.stack = s.stack ∧ t.i = s.i ∧ SameHost s t ∧
      (∀ r : Reg, (i = .drw x y n → r ≠ 15) → t.v[r.val] = s.v[r.val]) ∧
      (i = .ldDtVx x ∨ i = .ldStVx x → t.fb = s.fb) ∧
      (i ≠ .ldDtVx x → t.dt = s.dt) ∧ (i ≠ .ldStVx x → t.st = s.st))

/-! ### Invariants and whole-machine rules -/

/-- Reset meets the invariant, with every value of the parameters. -/
def Obligations.ResetMeetsInvariant : Prop :=
  Inv State.reset ∧ ∀ p : Params, Inv (State.resetWith p)

/-- Every step keeps the invariant: canonical memory, PC at most 0x10FE (R27), I inside its width (R25), every slot
the address of a fetched CALL (R27, R33), `fault` the code of the last result (R38). -/
def Obligations.StepKeepsInvariant : Prop :=
  ∀ s t : State, Inv s → step s = .next t → Inv t

/-- R252: every interleaving of port uses (log 5: Reset and LoadProgram at any point too) keeps the invariant and the machine's parameters. -/
def Obligations.EveryHistoryKeepsInvariant : Prop :=
  ∀ (s : State) (es : List HostEvent), Inv s → Inv (history s es) ∧ (history s es).params = s.params

/-- R163, R239: a core at a JP to its own address stays there, step after step, with every register, timer, slot,
pixel and byte as it was. -/
def Obligations.IdleLoopStaysIdle : Prop :=
  ∀ s : State, AtIdleLoop s →
    ∃ t, step s = .next t ∧ AtIdleLoop t ∧
      t = { s with result := .ok, inputs := s.inputs.tail, draws := s.draws + 1 }

/-- R31: what a slot at or above SP holds can never be observed, not even by what follows from it. -/
def Obligations.DeadSlotsAreUnobservable : Prop :=
  ∀ s t : State, AgreeOnLiveSlots s t →
    (∃ s' t', step s = .next s' ∧ step t = .next t' ∧ AgreeOnLiveSlots s' t') ∨
    (∃ f, step s = .fault f ∧ step t = .fault f)

/-- R250: an instruction that does not use the inputs of its step ignores them. -/
def Obligations.UnusedInputsAreIgnored : Prop :=
  ∀ (i : Instr) (s t : State) (l : List StepInput) (d : Nat), readsInputs i = false →
    exec i s = .next t → exec i { s with inputs := l, draws := d } = .next { t with inputs := l, draws := d }

/-- R63: a word FX55 stores at the next PC is the instruction the next step runs. -/
def Obligations.StoreIsSeenByNextFetch : Prop :=
  ∀ (s t : State) (x : Reg), exec (.ldMemVx x) s = .next t → 1 ≤ x.val →
    s.i = s.pc.toNat + 2 → s.i + x.val < 4096 →
    fetch t = .ok (BitVec.ofNat 16 (s.v[0].toNat * 256 + s.v[1].toNat))

/-- R261 and decision D25: the program at 0x200 on and every other byte as before; a length outside [1, 3584] is
refused. -/
def Obligations.LoadProgramWritesFromProgBase : Prop :=
  ∀ (s : State) (bs : List Byte),
    (1 ≤ bs.length ∧ bs.length ≤ 3584 →
      ∃ t, loadProgram bs s = some t ∧ t = { s with mem := t.mem } ∧
        (∀ (k : Nat) (h : k < bs.length), t.mem.read (0x200 + k) = bs[k]) ∧
        (∀ a, a < 0x200 ∨ 0x200 + bs.length ≤ a → t.mem.read a = s.mem.read a)) ∧
    (¬ (1 ≤ bs.length ∧ bs.length ≤ 3584) → loadProgram bs s = none ∧ (act s (.loadProgram bs)).1 = s)

/-- 20_memory.md R51, R52: an access inside memory reads what was last written there; outside it OutOfRange, and a
value above 255 ValueOverflow after the address check; a failed write changes nothing. -/
def Obligations.MemoryAccessesAreBounded : Prop :=
  ∀ (s : State) (a v : Nat),
    (a < 4096 → memRead s a = .ok (s.mem.read a)) ∧
    (4096 ≤ a → memRead s a = .error (.outOfRange a) ∧ memWrite s a v = .error (.outOfRange a)) ∧
    (a < 4096 → 255 < v → memWrite s a v = .error (.valueOverflow v)) ∧
    (a < 4096 → v ≤ 255 → ∃ t, memWrite s a v = .ok t ∧ t = { s with mem := t.mem } ∧
      ∀ b, t.mem.read b = if b = a then BitVec.ofNat 8 v else s.mem.read b)
end

