-- ==== Sys2Proof/Laws/Fields.lean ====
section
/-! SUPPORT. Fields of a word as quotients and remainders of its number, the fields of each encoding format, and
what a mask of R84 says of the fields. -/

namespace Sys2Proof

theorem famField_toNat (w : Word) : (famField w).toNat = w.toNat / 4096 % 16 := by
  simp [famField, BitVec.extractLsb'_toNat, Nat.shiftRight_eq_div_pow]

theorem xField_toNat (w : Word) : (xField w).toNat = w.toNat / 256 % 16 := by
  simp [xField, BitVec.extractLsb'_toNat, Nat.shiftRight_eq_div_pow]

theorem yField_toNat (w : Word) : (yField w).toNat = w.toNat / 16 % 16 := by
  simp [yField, BitVec.extractLsb'_toNat, Nat.shiftRight_eq_div_pow]

theorem nField_toNat (w : Word) : (nField w).toNat = w.toNat % 16 := by
  simp [nField, BitVec.extractLsb'_toNat]

theorem nnField_toNat (w : Word) : (nnField w).toNat = w.toNat % 256 := by
  simp [nnField, BitVec.extractLsb'_toNat]

theorem nnnField_toNat (w : Word) : (nnnField w).toNat = w.toNat % 4096 := by
  simp [nnnField, BitVec.extractLsb'_toNat]

/-- A concatenation as a sum. -/
theorem toNat_append_eq {m n : Nat} (a : BitVec m) (b : BitVec n) :
    (a ++ b).toNat = a.toNat * 2 ^ n + b.toNat := by
  rw [BitVec.toNat_append, Nat.shiftLeft_eq, Nat.mul_comm, Nat.two_pow_add_eq_or_of_lt b.isLt]

theorem regBits_toNat (r : Reg) : (regBits r).toNat = r.val := rfl

@[simp] theorem regOf_regBits (r : Reg) : regOf (regBits r) = r := rfl

@[simp] theorem regBits_regOf (b : Nibble) : regBits (regOf b) = b := rfl

theorem fmtNNN_toNat (o : Nibble) (nnn : Addr12) : (fmtNNN o nnn).toNat = o.toNat * 4096 + nnn.toNat := by
  have h : (fmtNNN o nnn).toNat = o.toNat * 2 ^ 12 + nnn.toNat := toNat_append_eq o nnn
  rw [h]; norm_num

theorem fmtXNN_toNat (o : Nibble) (x : Reg) (nn : Byte) :
    (fmtXNN o x nn).toNat = o.toNat * 4096 + x.val * 256 + nn.toNat := by
  have h : (fmtXNN o x nn).toNat = (o.toNat * 2 ^ 4 + (regBits x).toNat) * 2 ^ 8 + nn.toNat := by
    rw [← toNat_append_eq, ← toNat_append_eq]; rfl
  rw [h, regBits_toNat]; omega

theorem fmtXYN_toNat (o : Nibble) (x y : Reg) (n : Nibble) :
    (fmtXYN o x y n).toNat = o.toNat * 4096 + x.val * 256 + y.val * 16 + n.toNat := by
  have h : (fmtXYN o x y n).toNat
      = ((o.toNat * 2 ^ 4 + (regBits x).toNat) * 2 ^ 4 + (regBits y).toNat) * 2 ^ 4 + n.toNat := by
    rw [← toNat_append_eq, ← toNat_append_eq, ← toNat_append_eq]; rfl
  rw [h, regBits_toNat, regBits_toNat]; omega

@[simp] theorem famField_fmtNNN (o : Nibble) (a : Addr12) : famField (fmtNNN o a) = o := by
  apply BitVec.eq_of_toNat_eq; rw [famField_toNat, fmtNNN_toNat]; omega

@[simp] theorem nnnField_fmtNNN (o : Nibble) (a : Addr12) : nnnField (fmtNNN o a) = a := by
  apply BitVec.eq_of_toNat_eq; rw [nnnField_toNat, fmtNNN_toNat]; omega

@[simp] theorem famField_fmtXNN (o : Nibble) (x : Reg) (nn : Byte) : famField (fmtXNN o x nn) = o := by
  apply BitVec.eq_of_toNat_eq; rw [famField_toNat, fmtXNN_toNat]; omega

@[simp] theorem xReg_fmtXNN (o : Nibble) (x : Reg) (nn : Byte) : xReg (fmtXNN o x nn) = x := by
  apply Fin.ext
  show (xField _).toNat = x.val
  rw [xField_toNat, fmtXNN_toNat]; omega

@[simp] theorem nnField_fmtXNN (o : Nibble) (x : Reg) (nn : Byte) : nnField (fmtXNN o x nn) = nn := by
  apply BitVec.eq_of_toNat_eq; rw [nnField_toNat, fmtXNN_toNat]; omega

@[simp] theorem famField_fmtXYN (o : Nibble) (x y : Reg) (n : Nibble) : famField (fmtXYN o x y n) = o := by
  apply BitVec.eq_of_toNat_eq; rw [famField_toNat, fmtXYN_toNat]; omega

@[simp] theorem xReg_fmtXYN (o : Nibble) (x y : Reg) (n : Nibble) : xReg (fmtXYN o x y n) = x := by
  apply Fin.ext
  show (xField _).toNat = x.val
  rw [xField_toNat, fmtXYN_toNat]; omega

@[simp] theorem yReg_fmtXYN (o : Nibble) (x y : Reg) (n : Nibble) : yReg (fmtXYN o x y n) = y := by
  apply Fin.ext
  show (yField _).toNat = y.val
  rw [yField_toNat, fmtXYN_toNat]; omega

@[simp] theorem nField_fmtXYN (o : Nibble) (x y : Reg) (n : Nibble) : nField (fmtXYN o x y n) = n := by
  apply BitVec.eq_of_toNat_eq; rw [nField_toNat, fmtXYN_toNat]; omega

/-- A word is its nibbles. -/
theorem fmtXYN_fields (w : Word) : fmtXYN (famField w) (xReg w) (yReg w) (nField w) = w := by
  apply BitVec.eq_of_toNat_eq
  rw [fmtXYN_toNat, famField_toNat, nField_toNat]
  show w.toNat / 4096 % 16 * 4096 + (xField w).toNat * 256 + (yField w).toNat * 16 + _ = _
  rw [xField_toNat, yField_toNat]; omega

theorem fmtXNN_fields (w : Word) : fmtXNN (famField w) (xReg w) (nnField w) = w := by
  apply BitVec.eq_of_toNat_eq
  rw [fmtXNN_toNat, famField_toNat, nnField_toNat]
  show w.toNat / 4096 % 16 * 4096 + (xField w).toNat * 256 + _ = _
  rw [xField_toNat]; omega

theorem fmtNNN_fields (w : Word) : fmtNNN (famField w) (nnnField w) = w := by
  apply BitVec.eq_of_toNat_eq
  rw [fmtNNN_toNat, famField_toNat, nnnField_toNat]; omega

/-! ### Masks -/

theorem getLsbD_fmtNNN (o : Nibble) (a : Addr12) (i : Nat) :
    (fmtNNN o a).getLsbD i = if i < 12 then a.getLsbD i else o.getLsbD (i - 12) :=
  BitVec.getLsbD_append

theorem getLsbD_fmtXNN (o : Nibble) (x : Reg) (nn : Byte) (i : Nat) :
    (fmtXNN o x nn).getLsbD i = if i < 8 then nn.getLsbD i
      else if i - 8 < 4 then (regBits x).getLsbD (i - 8) else o.getLsbD (i - 8 - 4) := by
  have h : (fmtXNN o x nn).getLsbD i = ((o ++ regBits x) ++ nn).getLsbD i := rfl
  rw [h, BitVec.getLsbD_append, BitVec.getLsbD_append]

theorem getLsbD_fmtXYN (o : Nibble) (x y : Reg) (n : Nibble) (i : Nat) :
    (fmtXYN o x y n).getLsbD i = if i < 4 then n.getLsbD i
      else if i - 4 < 4 then (regBits y).getLsbD (i - 4)
      else if i - 4 - 4 < 4 then (regBits x).getLsbD (i - 4 - 4) else o.getLsbD (i - 4 - 4 - 4) := by
  have h : (fmtXYN o x y n).getLsbD i = (((o ++ regBits x) ++ regBits y) ++ n).getLsbD i := rfl
  rw [h, BitVec.getLsbD_append, BitVec.getLsbD_append, BitVec.getLsbD_append]

theorem and_F000 (w : Word) : w &&& 0xF000 = fmtNNN (famField w) 0 := by
  apply BitVec.eq_of_getLsbD_eq
  intro i hi
  rw [BitVec.getLsbD_and, getLsbD_fmtNNN]
  interval_cases i <;> simp [famField]

theorem and_F00F (w : Word) : w &&& 0xF00F = fmtXYN (famField w) 0 0 (nField w) := by
  apply BitVec.eq_of_getLsbD_eq
  intro i hi
  rw [BitVec.getLsbD_and, getLsbD_fmtXYN]
  interval_cases i <;> simp [famField, nField, regBits]

theorem and_F0FF (w : Word) : w &&& 0xF0FF = fmtXNN (famField w) 0 (nnField w) := by
  apply BitVec.eq_of_getLsbD_eq
  intro i hi
  rw [BitVec.getLsbD_and, getLsbD_fmtXNN]
  interval_cases i <;> simp [famField, nnField, regBits]

/-- Mask F000 selects by the family. -/
theorem and_F000_eq_iff (w : Word) (o : Nibble) : w &&& 0xF000 = fmtNNN o 0 ↔ famField w = o := by
  rw [and_F000]
  exact ⟨fun h => by simpa using congrArg famField h, fun h => by rw [h]⟩

/-- Mask F00F selects by the family and n. -/
theorem and_F00F_eq_iff (w : Word) (o n : Nibble) :
    w &&& 0xF00F = fmtXYN o 0 0 n ↔ famField w = o ∧ nField w = n := by
  rw [and_F00F]
  exact ⟨fun h => ⟨by simpa using congrArg famField h, by simpa using congrArg nField h⟩,
    fun h => by rw [h.1, h.2]⟩

/-- Mask F0FF selects by the family and nn. -/
theorem and_F0FF_eq_iff (w : Word) (o : Nibble) (nn : Byte) :
    w &&& 0xF0FF = fmtXNN o 0 nn ↔ famField w = o ∧ nnField w = nn := by
  rw [and_F0FF]
  exact ⟨fun h => ⟨by simpa using congrArg famField h, by simpa using congrArg nnField h⟩,
    fun h => by rw [h.1, h.2]⟩

end Sys2Proof
end

