-- ==== Sys2Proof/Laws/Ops.lean ====
section
/-! SUPPORT. For each shared operation, once, everything it can do. -/

namespace Sys2Proof.Machine

/-! ### Registers -/

theorem State.ext_v {s : State} {v : Vector Byte 16} (h : ∀ r : Reg, s.v[r.val] = v[r.val]) : s.v = v := by
  apply Vector.ext
  intro k hk
  exact h ⟨k, hk⟩

@[simp] theorem State.getV_setV_same (s : State) (r : Reg) (b : Byte) : (s.setV r b).getV r = b := by
  simp [State.getV]

theorem State.getV_setV (s : State) (r q : Reg) (b : Byte) :
    (s.setV r b).getV q = if q = r then b else s.getV q := by
  simp only [State.getV, State.setV_v, Vector.getElem_set, Fin.ext_iff]
  by_cases h : r.val = q.val
  · simp [h]
  · simp [h, Ne.symm h]

theorem State.getV_setV_other (s : State) {r q : Reg} (b : Byte) (h : q ≠ r) :
    (s.setV r b).getV q = s.getV q := by
  simp [State.getV_setV, h]

/-- The flag is what VF holds afterwards, whatever x is; the result is in Vx unless x = F. -/
theorem State.getV_setResultFlag (s : State) (x q : Reg) (b : Byte) (f : Bool) :
    (s.setResultFlag x b f).getV q =
      if q = 15 then (if f then 1 else 0) else if q = x then b else s.getV q := by
  simp only [State.setResultFlag, State.setFlag, State.getV_setV]

/-! ### Memory accesses -/

theorem memRead_eq (s : State) (a : Nat) :
    memRead s a = if a < memSize then .ok (s.mem.read a) else .error (.outOfRange a) := rfl

theorem memWrite_byte (s : State) (a : Nat) {v : Nat} (hv : v ≤ 255) :
    memWrite s a v = if a < memSize then .ok (s.setMem (s.mem.write a (BitVec.ofNat 8 v)))
      else .error (.outOfRange a) := by
  unfold memWrite
  by_cases ha : a < memSize <;> simp [ha, hv]

theorem setMem_setMem (s : State) (m n : Memory) : (s.setMem m).setMem n = s.setMem n := rfl
theorem setMem_self (s : State) : s.setMem s.mem = s := rfl

/-- The bytes below the end of memory are stored; the first one outside it raises OutOfRange. -/
theorem storeBytes_eq (s : State) (a : Nat) (vs : List Nat) (hv : ∀ v ∈ vs, v ≤ 255) :
    storeBytes s a vs =
      (s.setMem (s.mem.writeList a ((vs.take (memSize - a)).map (BitVec.ofNat 8))),
       if vs.length ≤ memSize - a then none else some (.outOfRange (max a memSize))) := by
  induction vs generalizing s a with
  | nil => simp [storeBytes, Memory.writeList, setMem_self]
  | cons v vs ih =>
    rw [storeBytes, memWrite_byte s a (hv v (by simp))]
    by_cases ha : a < memSize
    · simp only [ha, if_true]
      rw [ih _ _ (fun w hw => hv w (by simp [hw]))]
      obtain ⟨k, hk⟩ : ∃ k, memSize - a = k + 1 := ⟨memSize - a - 1, by omega⟩
      have hk' : memSize - (a + 1) = k := by omega
      have hmax : max (a + 1) memSize = max a memSize := by omega
      simp [hk, hk', hmax, Memory.writeList, setMem_setMem]
    · have h0 : memSize - a = 0 := by omega
      have hmax : max a memSize = a := by omega
      simp [ha, h0, hmax, Memory.writeList, setMem_self]

/-- The bytes at `a` on, or OutOfRange at the first address outside memory. -/
theorem readBytes_eq (s : State) (a n : Nat) :
    readBytes s a n = if n ≤ memSize - a then .ok ((List.range n).map (fun k => s.mem.read (a + k)))
      else .error (.outOfRange (max a memSize)) := by
  induction n generalizing a with
  | zero => simp [readBytes]
  | succ n ih =>
    rw [readBytes, memRead_eq]
    by_cases ha : a < memSize
    · simp only [ha, if_true, ih]
      by_cases hn : n + 1 ≤ memSize - a
      · have hn' : n ≤ memSize - (a + 1) := by omega
        simp only [hn, hn', if_true]
        rw [List.range_succ_eq_map, List.map_cons, List.map_map]
        congr 3
        funext k
        show s.mem.read (a + 1 + k) = s.mem.read (a + (k + 1))
        congr 1; omega
      · have hn' : ¬ n ≤ memSize - (a + 1) := by omega
        have hmax : max (a + 1) memSize = max a memSize := by omega
        simp [hn, hn', hmax]
    · have h0 : ¬ n + 1 ≤ memSize - a := by omega
      have hmax : max a memSize = a := by omega
      rw [if_neg ha, if_neg h0, hmax]

/-- Loading changes nothing but the general registers. -/
theorem loadRegs_frame (s : State) (base : Nat) (rs : List Reg) :
    (loadRegs s base rs).1 = { s with v := (loadRegs s base rs).1.v } := by
  induction rs generalizing s with
  | nil => rfl
  | cons r rs ih =>
    rw [loadRegs, memRead_eq]
    by_cases h : base + r.val < memSize
    · simp only [h, if_true]
      rw [ih]; rfl
    · simp only [h, if_false]

/-- The registers before the first failing read are loaded. -/
theorem loadRegs_getV (s : State) (base : Nat) (rs : List Reg) (q : Reg) :
    (loadRegs s base rs).1.getV q =
      if q ∈ rs.takeWhile (fun r => base + r.val < memSize) then s.mem.read (base + q.val) else s.getV q := by
  induction rs generalizing s with
  | nil => simp [loadRegs]
  | cons r rs ih =>
    rw [loadRegs, memRead_eq]
    by_cases h : base + r.val < memSize
    · simp only [h, if_true]
      rw [ih, List.takeWhile_cons_of_pos (by simpa using h), State.setV_mem, State.getV_setV]
      by_cases hq : q = r
      · subst hq; simp
      · simp [hq]
    · simp only [h, if_false]
      rw [List.takeWhile_cons_of_neg (by simpa using h)]
      simp

/-- The error of a load is that of the first address outside memory. -/
theorem loadRegs_err (s : State) (base : Nat) (rs : List Reg) :
    (loadRegs s base rs).2 =
      (rs.find? (fun r => !decide (base + r.val < memSize))).map (fun r => .outOfRange (base + r.val)) := by
  induction rs generalizing s with
  | nil => simp [loadRegs]
  | cons r rs ih =>
    rw [loadRegs, memRead_eq]
    by_cases h : base + r.val < memSize
    · simp only [h, if_true]
      rw [ih, List.find?_cons_of_neg (by simpa using h)]
    · simp only [h, if_false]
      rw [List.find?_cons_of_pos (by simpa using h)]; rfl

theorem mem_regsUpTo (x r : Reg) : r ∈ regsUpTo x ↔ r ≤ x := by
  revert x r; decide

theorem pairwise_regsUpTo (x : Reg) : (regsUpTo x).Pairwise (· < ·) := by
  revert x; decide

theorem length_regsUpTo (x : Reg) : (regsUpTo x).length = x.val + 1 := by
  revert x; decide

theorem getElem_regsUpTo (x : Reg) (k : Nat) (h : k < (regsUpTo x).length) :
    ((regsUpTo x)[k]).val = k := by
  simp [regsUpTo]

/-- In ascending order, the registers before the first failing address are those below it. -/
theorem mem_takeWhile_inside {rs : List Reg} (hs : rs.Pairwise (· < ·)) (base : Nat) (q : Reg) :
    q ∈ rs.takeWhile (fun r => decide (base + r.val < memSize)) ↔ q ∈ rs ∧ base + q.val < memSize := by
  induction rs with
  | nil => simp
  | cons r rs ih =>
    rw [List.pairwise_cons] at hs
    by_cases h : base + r.val < memSize
    · rw [List.takeWhile_cons_of_pos (by simpa using h), List.mem_cons, List.mem_cons, ih hs.2]
      constructor
      · rintro (rfl | h') <;> tauto
      · tauto
    · rw [List.takeWhile_cons_of_neg (by simpa using h)]
      constructor
      · intro h'; simp at h'
      · rintro ⟨hq, hlt⟩
        exfalso
        rcases List.mem_cons.1 hq with rfl | hq
        · exact h hlt
        · have : r.val < q.val := hs.1 q hq
          omega

/-- FX65's load: V[q] for q up to x and inside memory is the byte at base + q. -/
theorem loadUpTo_getV (s : State) (base : Nat) (x q : Reg) :
    (loadRegs s base (regsUpTo x)).1.getV q =
      if q ≤ x ∧ base + q.val < memSize then s.mem.read (base + q.val) else s.getV q := by
  rw [loadRegs_getV]
  simp only [mem_takeWhile_inside (pairwise_regsUpTo x), mem_regsUpTo]

theorem find_outside {rs : List Reg} (base k : Nat) (n : Nat) (hlen : rs.length = n)
    (hrs : ∀ (j : Nat) (h : j < rs.length), (rs[j]).val = k + j) :
    (rs.find? (fun r => !decide (base + r.val < memSize))).map (fun r => Err.outOfRange (base + r.val)) =
      if n ≤ memSize - (base + k) then none else some (.outOfRange (max (base + k) memSize)) := by
  induction rs generalizing k n with
  | nil => simp at hlen; subst hlen; simp
  | cons r rs ih =>
    subst hlen
    have hr : r.val = k := hrs 0 (Nat.zero_lt_succ _)
    by_cases h : base + r.val < memSize
    · rw [List.find?_cons_of_neg (by simpa using h)]
      rw [ih (k + 1) rs.length rfl (fun j hj => by
        have := hrs (j + 1) (by simpa using hj)
        simp only [List.getElem_cons_succ] at this
        omega)]
      rw [List.length_cons]
      have hmax : max (base + (k + 1)) memSize = max (base + k) memSize := by omega
      rw [hmax]
      have hc : rs.length ≤ memSize - (base + (k + 1)) ↔ rs.length + 1 ≤ memSize - (base + k) := by omega
      simp only [hc]
    · rw [List.find?_cons_of_pos (by simpa using h)]
      have h0 : ¬ (r :: rs).length ≤ memSize - (base + k) := by simp; omega
      have hmax : max (base + k) memSize = base + k := by omega
      rw [if_neg h0, hmax, Option.map_some, hr]

/-- FX65's error: none when all of the range lies inside memory. -/
theorem loadUpTo_err (s : State) (base : Nat) (x : Reg) :
    (loadRegs s base (regsUpTo x)).2 =
      if x.val + 1 ≤ memSize - base then none else some (.outOfRange (max base memSize)) := by
  rw [loadRegs_err]
  simpa using find_outside (rs := regsUpTo x) base 0 (x.val + 1) (length_regsUpTo x)
    (fun j h => by simpa using getElem_regsUpTo x j h)

/-- An instruction whose accesses all succeed ends with its last action. -/
theorem complete_none {r : State × Option Err} (h : r.2 = none) (k : State → State) :
    complete r k = .next (k r.1) := by
  simp [complete, h]

/-- An instruction with a failing access raises, with the effects before it in place. -/
theorem complete_some {r : State × Option Err} {e : Err} (h : r.2 = some e) (k : State → State) :
    complete r k = .next (r.1.raised e) := by
  simp [complete, h, raise]

/-- Either way it answers a next state. -/
theorem complete_next (r : State × Option Err) (k : State → State) : ∃ t, complete r k = .next t := by
  cases h : r.2 with
  | none => exact ⟨_, complete_none h k⟩
  | some e => exact ⟨_, complete_some h k⟩

/-! ### Fetch -/

theorem fetch_eq (s : State) :
    fetch s = if s.pc.toNat + 1 < memSize
      then .ok (wordOfBytes (s.mem.read s.pc.toNat) (s.mem.read (s.pc.toNat + 1)))
      else .error (.outOfRange (max s.pc.toNat memSize)) := by
  unfold fetch
  rw [memRead_eq, memRead_eq]
  by_cases h : s.pc.toNat < memSize
  · by_cases h' : s.pc.toNat + 1 < memSize
    · simp [h, h']
    · have : max s.pc.toNat memSize = s.pc.toNat + 1 := by omega
      simp [h, h', this]
  · have h' : ¬ s.pc.toNat + 1 < memSize := by omega
    have : max s.pc.toNat memSize = s.pc.toNat := by omega
    simp [h, h', this]

/-! ### Digits and keys -/

theorem nibbleArg_eq (v : Byte) :
    nibbleArg v = if h : v.toNat < 16 then .ok ⟨v.toNat, h⟩ else .error (.valueExceedsNibble v.toNat) := rfl

/-- FX0A waits exactly when no key is down. -/
theorem chooseKey_eq_none (pick : Nat) (ks : List (Fin 16)) : chooseKey pick ks = none ↔ ks = [] := by
  match ks with
  | [] => simp [chooseKey]
  | [k] => simp [chooseKey]
  | k :: k' :: ks =>
    have : pick % (ks.length + 2) < (k :: k' :: ks).length := Nat.mod_lt _ (by omega)
    simp only [chooseKey, List.getElem?_eq_getElem this]
    simp

/-- The key taken is one of the list. -/
theorem chooseKey_mem {pick : Nat} {ks : List (Fin 16)} {k : Fin 16} (h : chooseKey pick ks = some k) :
    k ∈ ks := by
  match ks, h with
  | [k'], h => simp [chooseKey] at h; simp [h]
  | k' :: k'' :: ks, h => exact List.mem_of_getElem? h

/-- Every key of the list is taken for some value of the free pick. -/
theorem chooseKey_any {ks : List (Fin 16)} {k : Fin 16} (h : k ∈ ks) : ∃ pick, chooseKey pick ks = some k := by
  match ks, h with
  | [k'], h => exact ⟨0, by simp at h; simp [chooseKey, h]⟩
  | k' :: k'' :: ks, h =>
    obtain ⟨j, hj, rfl⟩ := List.mem_iff_getElem.1 h
    refine ⟨j, ?_⟩
    have hlen : (k' :: k'' :: ks).length = ks.length + 2 := rfl
    have : j % (ks.length + 2) = j := Nat.mod_eq_of_lt (by omega)
    rw [chooseKey, this, List.getElem?_eq_getElem hj]

theorem mem_downKeys (s : State) (k : Fin 16) : k ∈ s.downKeys ↔ s.keyDown k = true := by
  simp [State.downKeys, List.mem_filter]

/-! ### Framebuffer -/

theorem Framebuffer.pixel_flip (f : Framebuffer) (x y : Nat) (hx : x < 64) (hy : y < 32) (x' y' : Nat) :
    (f.flip x y hy).pixel x' y' = (f.pixel x' y' ^^ decide (x' = x ∧ y' = y)) := by
  unfold Framebuffer.pixel Framebuffer.flip
  by_cases h : y' < 32
  · simp only [h, dite_true, Vector.getElem_set]
    by_cases hyy : y = y'
    · subst hyy
      by_cases hxx : x = x'
      · subst hxx; simp [hx]
      · simp [BitVec.getLsbD_twoPow, hxx, Ne.symm hxx]
    · simp [hyy, Ne.symm hyy]
  · have : y' ≠ y := by omega
    simp [h, this]

/-- Two framebuffers with the same pixels are equal. -/
theorem Framebuffer.ext_pixel {f g : Framebuffer}
    (h : ∀ x y, x < 64 → y < 32 → f.pixel x y = g.pixel x y) : f = g := by
  apply Vector.ext
  intro y hy
  apply BitVec.eq_of_getLsbD_eq
  intro x hx
  simpa [Framebuffer.pixel, hy] using h x y hx hy

theorem pixel_fbClear (x y : Nat) : Framebuffer.pixel fbClear x y = false := by
  simp [Framebuffer.pixel, fbClear]

/-- FbXor inside the grid: the pixel is XORed with b, and the flag says a set pixel was turned off. -/
theorem fbXor_inside (f : Framebuffer) {x y : Nat} (b : Bool) (hx : x < 64) (hy : y < 32) :
    ∃ g, fbXor f x y b = .ok (g, f.pixel x y && b) ∧
      ∀ x' y', g.pixel x' y' = (f.pixel x' y' ^^ (b && decide (x' = x ∧ y' = y))) := by
  refine ⟨if b then f.flip x y hy else f, by simp [fbXor, hx, hy], fun x' y' => ?_⟩
  cases b
  · simp
  · simp [Framebuffer.pixel_flip f x y hx hy]

/-- The value a list of pixels brings to (x, y): the XOR of the bits it has there. -/
def bitsAt (ps : List (Nat × Nat × Bool)) (x y : Nat) : Bool :=
  ps.any (fun p => p.2.2 && decide (p.1 = x ∧ p.2.1 = y))

/-- Drawing pixels that lie inside the grid, no two at one place: each is XORed with its bit, and the flag says
whether some pixel that was set before is turned off. -/
theorem drawBits_eq (ps : List (Nat × Nat × Bool)) (f : Framebuffer) (hit : Bool)
    (hin : ∀ p ∈ ps, p.1 < 64 ∧ p.2.1 < 32)
    (hne : ps.Pairwise (fun p q => ¬ (p.1 = q.1 ∧ p.2.1 = q.2.1))) :
    ∃ g, drawBits ps f hit = .ok (g, hit || ps.any (fun p => f.pixel p.1 p.2.1 && p.2.2)) ∧
      ∀ x y, g.pixel x y = (f.pixel x y ^^ bitsAt ps x y) := by
  induction ps generalizing f hit with
  | nil => exact ⟨f, by simp [drawBits], by simp [bitsAt]⟩
  | cons p ps ih =>
    obtain ⟨px, py, b⟩ := p
    rw [List.pairwise_cons] at hne
    obtain ⟨hpx, hpy⟩ := hin (px, py, b) (by simp)
    obtain ⟨f', hf', hpix⟩ := fbXor_inside f b hpx hpy
    obtain ⟨g, hg, hgp⟩ := ih f' (hit || (f.pixel px py && b)) (fun q hq => hin q (by simp [hq])) hne.2
    refine ⟨g, ?_, ?_⟩
    · rw [drawBits, hf']
      simp only [hg, List.any_cons, Bool.or_assoc]
      congr 4
      rw [Bool.eq_iff_iff]
      simp only [List.any_eq_true]
      apply exists_congr
      intro q
      apply and_congr_right
      intro hq
      have : ¬ (px = q.1 ∧ py = q.2.1) := hne.1 q hq
      have h' : ¬ (q.1 = px ∧ q.2.1 = py) := fun h => this ⟨h.1.symm, h.2.symm⟩
      rw [hpix]
      simp [h']
    · intro x y
      rw [hgp, hpix]
      by_cases hxy : x = px ∧ y = py
      · obtain ⟨rfl, rfl⟩ := hxy
        have h0 : bitsAt ps x y = false := by
          rw [bitsAt, List.any_eq_false]
          intro q hq
          have : ¬ (x = q.1 ∧ y = q.2.1) := hne.1 q hq
          have h' : ¬ (q.1 = x ∧ q.2.1 = y) := fun h => this ⟨h.1.symm, h.2.symm⟩
          simp [h']
        have h1 : bitsAt ((x, y, b) :: ps) x y = (b || bitsAt ps x y) := by simp [bitsAt]
        rw [h1, h0]; simp
      · have h' : ¬ (px = x ∧ py = y) := fun h => hxy ⟨h.1.symm, h.2.symm⟩
        have h1 : bitsAt ((px, py, b) :: ps) x y = bitsAt ps x y := by
          simp only [bitsAt, List.any_cons]
          rw [decide_eq_false h']; simp
        rw [h1, decide_eq_false hxy]; simp

end Sys2Proof.Machine
end

