-- ==== Sys2Proof/Laws/PerInstr.lean ====
section
/-! SUPPORT. Laws made per instruction: the family RoundTrip, one lemma per constructor of Instr. -/

namespace Sys2Proof.Laws.RoundTrip

/-- Decoding the word of a well-formed instruction gives the instruction back. -/
def Statement (i : Instr) : Prop :=
  ∀ strict, i.wellFormed strict = true → decodeWord strict (encode i) = .ok i

theorem cls : Statement .cls := by
  intro strict _; cases strict <;> decide

theorem ret : Statement .ret := by
  intro strict _; cases strict <;> decide

theorem sys (nnn : Addr12) : Statement (.sys nnn) := by
  intro strict h
  have h0 : encode (.sys nnn) = fmtNNN 0 nnn := rfl
  simp only [Instr.wellFormed, Bool.and_eq_true, bne_iff_ne, ne_eq] at h
  have hn : nnnField (fmtNNN 0 nnn) = nnn := nnnField_fmtNNN 0 nnn
  have h1 : fmtNNN 0 nnn ≠ 0x00E0 := fun e => h.1 (by rw [e] at hn; exact hn.symm)
  have h2 : fmtNNN 0 nnn ≠ 0x00EE := fun e => h.2 (by rw [e] at hn; exact hn.symm)
  have hf : famField (fmtNNN 0 nnn) = 0 := famField_fmtNNN 0 nnn
  rw [h0, decodeWord, hf]
  show Except.ok (decodeFam0 (fmtNNN 0 nnn)) = _
  rw [decodeFam0, if_neg h1, if_neg h2, hn]

theorem jp (nnn : Addr12) : Statement (.jp nnn) := by
  intro strict _; simp [encode, decodeWord]

theorem call (nnn : Addr12) : Statement (.call nnn) := by
  intro strict _; simp [encode, decodeWord]

theorem seVxNn (x : Reg) (nn : Byte) : Statement (.seVxNn x nn) := by
  intro strict _; simp [encode, decodeWord]

theorem sneVxNn (x : Reg) (nn : Byte) : Statement (.sneVxNn x nn) := by
  intro strict _; simp [encode, decodeWord]

theorem seVxVy (x y : Reg) (n : Nibble) : Statement (.seVxVy x y n) := by
  intro strict h
  cases strict <;> simp_all [Instr.wellFormed, encode, decodeWord, decodeFam59]

theorem ldVxNn (x : Reg) (nn : Byte) : Statement (.ldVxNn x nn) := by
  intro strict _; simp [encode, decodeWord]

theorem addVxNn (x : Reg) (nn : Byte) : Statement (.addVxNn x nn) := by
  intro strict _; simp [encode, decodeWord]

theorem ldVxVy (x y : Reg) : Statement (.ldVxVy x y) := by
  intro strict _; simp [encode, decodeWord, decodeFam8]

theorem orVxVy (x y : Reg) : Statement (.orVxVy x y) := by
  intro strict _; simp [encode, decodeWord, decodeFam8]

theorem andVxVy (x y : Reg) : Statement (.andVxVy x y) := by
  intro strict _; simp [encode, decodeWord, decodeFam8]

theorem xorVxVy (x y : Reg) : Statement (.xorVxVy x y) := by
  intro strict _; simp [encode, decodeWord, decodeFam8]

theorem addVxVy (x y : Reg) : Statement (.addVxVy x y) := by
  intro strict _; simp [encode, decodeWord, decodeFam8]

theorem subVxVy (x y : Reg) : Statement (.subVxVy x y) := by
  intro strict _; simp [encode, decodeWord, decodeFam8]

theorem shr (x y : Reg) : Statement (.shr x y) := by
  intro strict _; simp [encode, decodeWord, decodeFam8]

theorem subn (x y : Reg) : Statement (.subn x y) := by
  intro strict _; simp [encode, decodeWord, decodeFam8]

theorem shl (x y : Reg) : Statement (.shl x y) := by
  intro strict _; simp [encode, decodeWord, decodeFam8]

theorem sneVxVy (x y : Reg) (n : Nibble) : Statement (.sneVxVy x y n) := by
  intro strict h
  cases strict <;> simp_all [Instr.wellFormed, encode, decodeWord, decodeFam59]

theorem ldINnn (nnn : Addr12) : Statement (.ldINnn nnn) := by
  intro strict _; simp [encode, decodeWord]

theorem jpV0Nnn (nnn : Addr12) : Statement (.jpV0Nnn nnn) := by
  intro strict _; simp [encode, decodeWord]

theorem rnd (x : Reg) (nn : Byte) : Statement (.rnd x nn) := by
  intro strict _; simp [encode, decodeWord]

theorem drw (x y : Reg) (n : Nibble) : Statement (.drw x y n) := by
  intro strict _; simp [encode, decodeWord]

theorem skp (x : Reg) : Statement (.skp x) := by
  intro strict _; simp [encode, decodeWord, decodeFamE]

theorem sknp (x : Reg) : Statement (.sknp x) := by
  intro strict _; simp [encode, decodeWord, decodeFamE]

theorem ldVxDt (x : Reg) : Statement (.ldVxDt x) := by
  intro strict _; simp [encode, decodeWord, decodeFamF]

theorem ldVxK (x : Reg) : Statement (.ldVxK x) := by
  intro strict _; simp [encode, decodeWord, decodeFamF]

theorem ldDtVx (x : Reg) : Statement (.ldDtVx x) := by
  intro strict _; simp [encode, decodeWord, decodeFamF]

theorem ldStVx (x : Reg) : Statement (.ldStVx x) := by
  intro strict _; simp [encode, decodeWord, decodeFamF]

theorem addIVx (x : Reg) : Statement (.addIVx x) := by
  intro strict _; simp [encode, decodeWord, decodeFamF]

theorem ldFVx (x : Reg) : Statement (.ldFVx x) := by
  intro strict _; simp [encode, decodeWord, decodeFamF]

theorem ldBVx (x : Reg) : Statement (.ldBVx x) := by
  intro strict _; simp [encode, decodeWord, decodeFamF]

theorem ldMemVx (x : Reg) : Statement (.ldMemVx x) := by
  intro strict _; simp [encode, decodeWord, decodeFamF]

theorem ldVxMem (x : Reg) : Statement (.ldVxMem x) := by
  intro strict _; simp [encode, decodeWord, decodeFamF]

end Sys2Proof.Laws.RoundTrip
end

