-- ==== Sys2Proof/Laws/Step.lean ====
section
/-! SUPPORT. What a step can do, once. -/

namespace Sys2Proof.Machine

/-- A stopped core. -/
theorem step_stopped {s : State} {c : FaultCode} (h : s.fault = some c) : step s = .fault (.stopped c) := by
  simp [step, cycle, h]

/-- A running core. -/
theorem step_running {s : State} (h : s.fault = none) : step s = withInputsUsed (fetchRun s.beginStep) := by
  simp [step, cycle, h]

@[simp] theorem withInputsUsed_next (t : State) : withInputsUsed (.next t) = .next t.endStep := rfl

theorem fetch_beginStep (s : State) : fetch s.beginStep = fetch s := by
  rw [fetch_eq, fetch_eq]; rfl

/-- A fetch fault. -/
theorem step_fetch_error {s : State} (h : s.fault = none) {e : Err} (hf : fetch s = .error e) :
    step s = .next (s.beginStep.raised e).endStep := by
  rw [step_running h, fetchRun, fetch_beginStep, hf]; rfl

/-- A word of no instruction. -/
theorem step_unknown {s : State} (h : s.fault = none) {w : Word} (hf : fetch s = .ok w) {e : DecodeError}
    (hd : decodeWord s.params.strict59 w = .error e) :
    step s = .next (s.beginStep.raised (.unknownOpcode w)).endStep := by
  rw [step_running h, fetchRun, fetch_beginStep, hf]
  simp only [runWord, State.beginStep_params, hd]; rfl

/-- A word of an instruction. -/
theorem step_exec {s : State} (h : s.fault = none) {w : Word} (hf : fetch s = .ok w) {i : Instr}
    (hd : decodeWord s.params.strict59 w = .ok i) : step s = withInputsUsed (exec i s.beginStep) := by
  rw [step_running h, fetchRun, fetch_beginStep, hf]
  simp only [runWord, State.beginStep_params, hd]

/-- Inversion of a step that answers a next state: a fetch fault, a word of no instruction, or an instruction. -/
theorem step_next_cases {s t : State} (h : step s = .next t) :
    s.fault = none ∧
      ((∃ e, fetch s = .error e ∧ t = (s.beginStep.raised e).endStep) ∨
       (∃ w e, fetch s = .ok w ∧ decodeWord s.params.strict59 w = .error e ∧
          t = (s.beginStep.raised (.unknownOpcode w)).endStep) ∨
       (∃ w i u, fetch s = .ok w ∧ decodeWord s.params.strict59 w = .ok i ∧
          exec i s.beginStep = .next u ∧ t = u.endStep)) := by
  cases hfa : s.fault with
  | some c => rw [step_stopped hfa] at h; cases h
  | none =>
    refine ⟨rfl, ?_⟩
    cases hf : fetch s with
    | error e =>
      rw [step_fetch_error hfa hf] at h
      exact .inl ⟨e, rfl, by cases h; rfl⟩
    | ok w =>
      right
      cases hd : decodeWord s.params.strict59 w with
      | error e =>
        rw [step_unknown hfa hf hd] at h
        exact .inl ⟨w, e, rfl, hd, by cases h; rfl⟩
      | ok i =>
        rw [step_exec hfa hf hd] at h
        right
        cases hx : exec i s.beginStep with
        | next u => rw [hx] at h; exact ⟨w, i, u, rfl, hd, hx, by cases h; rfl⟩
        | fault f => rw [hx] at h; cases h
        | refused r => rw [hx] at h; cases h

/-- A fetch that succeeds is of a PC up to 4094. -/
theorem pc_of_fetch {s : State} {w : Word} (h : fetch s = .ok w) : s.pc.toNat + 1 < 4096 := by
  rw [fetch_eq] at h
  by_contra hc
  have hc' : ¬ s.pc.toNat + 1 < memSize := hc
  rw [if_neg hc'] at h
  cases h

end Sys2Proof.Machine
end

