-- ==== Sys2Proof/Tests/Slice0.lean ====
section
/-! SUPPORT. Tests: expected results come from the vectors of 95_test_vectors.md (their labels stand in the comments)
or are worked out by hand from the rules. Then, for every statement with hypotheses, a concrete witness that meets
them. -/

namespace Sys2Proof.Machine.Tests

set_option Elab.async false

/-! ### Helpers -/

/-- The next state of an outcome. -/
def nextOf : Host.Outcome State Fault Refusal → Option State
  | .next t => some t
  | _ => none

/-- What a test reads of the state an instruction leaves. -/
def after {α : Type} (i : Instr) (s : State) (f : State → α) : Option α := (nextOf (exec i s)).map f

/-- What a test reads of the state one step leaves. -/
def afterStep {α : Type} (s : State) (f : State → α) : Option α := (nextOf (step s)).map f

/-- The instruction a word decodes to. -/
def dec (strict : Bool) (w : Word) : Option Instr := (decodeWord strict w).toOption

/-- Reset, with some registers set. -/
def regs (l : List (Reg × Byte)) : State := l.foldl (fun s p => s.setV p.1 p.2) State.reset

/-- Reset, with bytes of memory set. -/
def bytes (s : State) (a : Nat) (bs : List Byte) : State := s.setMem (s.mem.writeList a bs)

/-- Key lines with the given keys down. -/
def keysDown (l : List Nat) : Keys := Vector.ofFn (fun k : Fin 16 => l.contains k.val)

/-- The machine's state with other parameters. -/
def withParams (f : Params → Params) (s : State) : State := { s with params := f s.params }

/-! ### WellFormed smoke: one ill-formed term per check, refused -/

theorem test_wf_refuses_sys_cls : (Instr.sys 0x0E0).wellFormed false = false := by decide
theorem test_wf_refuses_sys_ret : (Instr.sys 0x0EE).wellFormed false = false := by decide
theorem test_wf_refuses_strict_se : (Instr.seVxVy 1 2 1).wellFormed true = false := by decide
theorem test_wf_refuses_strict_sne : (Instr.sneVxVy 1 2 15).wellFormed true = false := by decide
theorem test_wf_admits : (Instr.sys 0x1E0).wellFormed false = true ∧ (Instr.seVxVy 1 2 1).wellFormed false = true ∧
    (Instr.sneVxVy 1 2 0).wellFormed true = true := by decide

/-! ### Decoding: every constructor, from a word written out bit by bit by R84 -/

theorem test_decode_family_0 :
    dec false 0b0000000011100000 = some .cls ∧ dec false 0b0000000011101110 = some .ret ∧
    dec false 0b0000000111100000 = some (.sys 0x1E0) := by decide
theorem test_decode_families_1_to_7 :
    dec false 0b0001001000000100 = some (.jp 0x204) ∧ dec false 0b0010101010111100 = some (.call 0xABC) ∧
    dec false 0b0011000100000010 = some (.seVxNn 1 2) ∧ dec false 0b0100000100000010 = some (.sneVxNn 1 2) ∧
    dec true 0b0101001000110000 = some (.seVxVy 2 3 0) ∧ dec false 0b0110101001000010 = some (.ldVxNn 10 0x42) ∧
    dec false 0b0111000111111111 = some (.addVxNn 1 0xFF) := by decide
theorem test_decode_family_8 :
    dec false 0b1000001001010000 = some (.ldVxVy 2 5) ∧ dec false 0b1000001001010001 = some (.orVxVy 2 5) ∧
    dec false 0b1000001001010010 = some (.andVxVy 2 5) ∧ dec false 0b1000001001010011 = some (.xorVxVy 2 5) ∧
    dec false 0b1000001001010100 = some (.addVxVy 2 5) ∧ dec false 0b1000001001010101 = some (.subVxVy 2 5) ∧
    dec false 0b1000001001010110 = some (.shr 2 5) ∧ dec false 0b1000001001010111 = some (.subn 2 5) ∧
    dec false 0b1000001001011110 = some (.shl 2 5) := by decide
theorem test_decode_families_9_to_D :
    dec true 0b1001001000110000 = some (.sneVxVy 2 3 0) ∧ dec false 0b1010001100000000 = some (.ldINnn 0x300) ∧
    dec false 0b1011111111111111 = some (.jpV0Nnn 0xFFF) ∧ dec false 0b1100001100001111 = some (.rnd 3 0x0F) ∧
    dec false 0b1101000000010101 = some (.drw 0 1 5) := by decide
theorem test_decode_families_E_F :
    dec false 0b1110001110011110 = some (.skp 3) ∧ dec false 0b1110001110100001 = some (.sknp 3) ∧
    dec false 0b1111010100000111 = some (.ldVxDt 5) ∧ dec false 0b1111001000001010 = some (.ldVxK 2) ∧
    dec false 0b1111010100010101 = some (.ldDtVx 5) ∧ dec false 0b1111000100011000 = some (.ldStVx 1) ∧
    dec false 0b1111001000011110 = some (.addIVx 2) ∧ dec false 0b1111010100101001 = some (.ldFVx 5) ∧
    dec false 0b1111010100110011 = some (.ldBVx 5) ∧ dec false 0b1111001001010101 = some (.ldMemVx 2) ∧
    dec false 0b1111001001100101 = some (.ldVxMem 2) := by decide
/-- E5 to E9: words of no row, and 5121 under both values of STRICT_5_9. -/
theorem test_decode_refuses :
    dec false 0x8AB8 = none ∧ dec false 0x8ABF = none ∧ dec false 0xE39F = none ∧ dec false 0xF3FF = none ∧
    dec true 0x5121 = none ∧ dec true 0x9121 = none ∧ dec false 0x5121 = some (.seVxVy 1 2 1) := by decide
theorem test_decodeTableWord : decodeTableWord 16 0xD015 = some (.drw 0 1 5) ∧ decodeTableWord 16 0x8AB8 = none := by
  decide

/-! ### Reset, fetch, step -/

/-- R260: PC, and the font's first and last bytes with the bytes around them; P5's last glyph row is 80. -/
theorem test_reset : State.reset.pc = 0x200 ∧ State.reset.mem.read 0 = 0xF0 ∧ State.reset.mem.read 79 = 0x80 ∧
    State.reset.mem.read 80 = 0 ∧ State.reset.mem.read 4095 = 0 := by decide +kernel
/-- E2. -/
theorem test_step_odd_pc : afterStep (bytes { State.reset with pc := 0x201 } 0x201 [0x60, 0x05])
    (fun t => (t.v[0], t.pc)) = some (5, 0x203) := by decide +kernel
/-- E3. -/
theorem test_step_pc_FFF : afterStep { State.reset with pc := 0xFFF } (fun t => (t.result, t.pc, t.fault)) =
    some (.err (.outOfRange 0x1000), 0xFFF, some .outOfRange) := by decide +kernel
/-- E5. -/
theorem test_step_unknown : afterStep (State.reset.withFetchWord 16 0x8AB8) (fun t => (t.result, t.pc)) =
    some (.err (.unknownOpcode 0x8AB8), 0x200) := by decide +kernel
/-- E12. -/
theorem test_step_stopped : portStep (keysDown []) 0 { State.reset with fault := some .stackOverflow } =
    ({ State.reset with fault := some .stackOverflow }, .stopped) := by decide +kernel
/-- withFetchWord: the very next step runs the word. -/
theorem test_withFetchWord : afterStep (State.reset.withFetchWord 16 0x6A42) (fun t => (t.v[10], t.pc)) =
    some (0x42, 0x202) := by decide +kernel

/-! ### Arithmetic and logic -/

/-- A1, A2. -/
theorem test_ldVxNn : after (.ldVxNn 10 0x42) State.reset (fun t => (t.v[10], t.pc)) = some (0x42, 0x202) := by
  decide +kernel
theorem test_addVxNn : after (.addVxNn 1 3) (regs [(1, 0xFE)]) (fun t => (t.v[1], t.v[15])) = some (1, 0) := by
  decide +kernel
/-- A5 to A8. -/
theorem test_ldVxVy : after (.ldVxVy 2 5) (regs [(2, 0x11), (5, 0x99)]) (fun t => t.v[2]) = some 0x99 := by
  decide +kernel
theorem test_orVxVy : after (.orVxVy 0 1) (regs [(0, 0xF0), (1, 0x0F), (15, 5)]) (fun t => (t.v[0], t.v[15])) =
    some (0xFF, 5) := by decide +kernel
theorem test_andVxVy : after (.andVxVy 0 1) (regs [(0, 0xF3), (1, 0x3F)]) (fun t => t.v[0]) = some 0x33 := by
  decide +kernel
theorem test_xorVxVy : after (.xorVxVy 0 1) (regs [(0, 0xFF), (1, 0x0F)]) (fun t => t.v[0]) = some 0xF0 := by
  decide +kernel
/-- A12, A14. -/
theorem test_addVxVy_no_carry : after (.addVxVy 0 1) (regs [(0, 0x7F), (1, 0x80)]) (fun t => (t.v[0], t.v[15])) =
    some (0xFF, 0) := by decide +kernel
theorem test_addVxVy_x_is_F : after (.addVxVy 15 0) (regs [(15, 0xFF), (0, 1)]) (fun t => t.v[15]) = some 1 := by
  decide +kernel
/-- A16, A20 under borrow. -/
theorem test_subVxVy_equal : after (.subVxVy 0 1) (regs [(0, 5), (1, 5)]) (fun t => (t.v[0], t.v[15])) =
    some (0, 1) := by decide +kernel
theorem test_subVxVy_borrow : after (.subVxVy 0 1)
    (withParams (fun p => { p with subFlagPolarity := .borrow }) (regs [(0, 0x23), (1, 0x25)]))
    (fun t => (t.v[0], t.v[15])) = some (0xFE, 1) := by decide +kernel
/-- A22, A24. -/
theorem test_shr : after (.shr 0 1) (regs [(0, 1)]) (fun t => (t.v[0], t.v[15])) = some (0, 1) := by decide +kernel
theorem test_shr_x_is_F : after (.shr 15 15) (regs [(15, 3)]) (fun t => t.v[15]) = some 1 := by decide +kernel
/-- A26, A27. -/
theorem test_subn_borrow : after (.subn 0 1) (regs [(0, 0x25), (1, 0x23)]) (fun t => (t.v[0], t.v[15])) =
    some (0xFE, 0) := by decide +kernel
theorem test_subn : after (.subn 0 1) (regs [(0, 0x23), (1, 0x25)]) (fun t => (t.v[0], t.v[15])) =
    some (2, 1) := by decide +kernel
/-- A29, A30. -/
theorem test_shl : after (.shl 0 0) (regs [(0, 0x99)]) (fun t => (t.v[0], t.v[15])) = some (0x32, 1) := by
  decide +kernel
theorem test_shl_no_carry : after (.shl 0 0) (regs [(0, 0x7F)]) (fun t => (t.v[0], t.v[15])) = some (0xFE, 0) := by
  decide +kernel
/-- A33. -/
theorem test_rnd : after (.rnd 3 0x0F) (State.reset.present (keysDown []) 0xA7) (fun t => t.v[3]) = some 7 := by
  decide +kernel

/-! ### Index and memory -/

/-- M2, M6 under two widths. -/
theorem test_ldINnn : after (.ldINnn 0xFFF) State.reset (fun t => t.i) = some 0xFFF := by decide +kernel
theorem test_addIVx : after (.addIVx 0) { regs [(0, 0xFF)] with i := 0xFF10 } (fun t => t.i) = some 0xF := by
  decide +kernel
theorem test_addIVx_unbounded : after (.addIVx 0)
    (withParams (fun p => { p with iAddWidth := .unbounded }) { regs [(0, 0xFF)] with i := 0xFF10 })
    (fun t => t.i) = some 0x1000F := by decide +kernel
/-- M9, M10. -/
theorem test_ldFVx : after (.ldFVx 5) (regs [(5, 0x0B)]) (fun t => t.i) = some 0x37 := by decide +kernel
theorem test_ldFVx_above_F : after (.ldFVx 5) { regs [(5, 0x10)] with i := 0x123 } (fun t => (t.result, t.i, t.pc)) =
    some (.err (.valueExceedsNibble 0x10), 0x123, 0x200) := by decide +kernel
/-- M11, M14. -/
theorem test_ldBVx : after (.ldBVx 5) { regs [(5, 0xFF)] with i := 0x300 }
    (fun t => (t.mem.read 0x300, t.mem.read 0x301, t.mem.read 0x302)) = some (2, 5, 5) := by decide +kernel
theorem test_ldBVx_edge : after (.ldBVx 5) { regs [(5, 0xEA)] with i := 0xFFE }
    (fun t => (t.mem.read 0xFFE, t.mem.read 0xFFF, t.result)) = some (2, 3, .err (.outOfRange 0x1000)) := by
  decide +kernel
/-- M15 with LDST_INCREMENTS_I, M16. -/
theorem test_ldMemVx : after (.ldMemVx 2) (withParams (fun p => { p with ldstIncrementsI := true })
    { regs [(0, 1), (1, 2), (2, 3)] with i := 0x300 }) (fun t => (t.mem.read 0x302, t.mem.read 0x303, t.i)) =
    some (3, 0, 0x303) := by decide +kernel
theorem test_ldMemVx_x_is_0 : after (.ldMemVx 0) { regs [(0, 0x77), (1, 0x88)] with i := 0x300 }
    (fun t => (t.mem.read 0x300, t.mem.read 0x301, t.i)) = some (0x77, 0, 0x300) := by decide +kernel
/-- M19, M20. -/
theorem test_ldVxMem : after (.ldVxMem 15) State.reset (fun t => (t.v[1], t.v[5], t.v[15])) =
    some (0x90, 0x20, 0xF0) := by decide +kernel
theorem test_ldVxMem_edge : after (.ldVxMem 2) { bytes (regs [(2, 9)]) 0xFFE [0xAA, 0xBB] with i := 0xFFE }
    (fun t => (t.v[1], t.v[2], t.result)) = some (0xBB, 9, .err (.outOfRange 0x1000)) := by decide +kernel

/-! ### Control flow -/

/-- E10, E11. -/
theorem test_sys_refused : after (.sys 0x1E0) State.reset (fun t => (t.result, t.fault, t.pc)) =
    some (.refused, some .refused, 0x200) := by decide +kernel
theorem test_sys_nop : after (.sys 0) (withParams (fun p => { p with sysMode := .nop }) State.reset)
    (fun t => (t.fault, t.pc)) = some (none, 0x202) := by decide +kernel
/-- C4, C5. -/
theorem test_ret : after .ret { State.reset with pc := 0xABC, sp := 1, stack := State.reset.stack.set 0 0x200 }
    (fun t => (t.sp, t.pc)) = some (0, 0x202) := by decide +kernel
theorem test_ret_underflow : after .ret State.reset (fun t => (t.result, t.pc, t.sp)) =
    some (.err .stackUnderflow, 0x200, 0) := by decide +kernel
/-- C2. -/
theorem test_jp : after (.jp 0x200) State.reset (fun t => t.pc) = some 0x200 := by decide +kernel
/-- C3, C6. -/
theorem test_call : after (.call 0xABC) State.reset (fun t => (t.stack[0], t.sp, t.pc)) = some (0x200, 1, 0xABC) := by
  decide +kernel
theorem test_call_overflow : after (.call 0x400) { State.reset with pc := 0x300, sp := 16 }
    (fun t => (t.result, t.pc, t.sp)) = some (.err (.stackOverflow 0x300), 0x300, 16) := by decide +kernel
/-- C8, C9, C10, C11. -/
theorem test_seVxNn : after (.seVxNn 1 0) State.reset (fun t => t.pc) = some 0x204 ∧
    after (.seVxNn 1 0) (regs [(1, 1)]) (fun t => t.pc) = some 0x202 := by decide +kernel
theorem test_sneVxNn : after (.sneVxNn 1 0) (regs [(1, 5)]) (fun t => t.pc) = some 0x204 ∧
    after (.sneVxNn 1 0) State.reset (fun t => t.pc) = some 0x202 := by decide +kernel
/-- E9, C13, C15, C16. -/
theorem test_seVxVy : after (.seVxVy 1 2 1) (regs [(1, 7), (2, 7)]) (fun t => t.pc) = some 0x204 ∧
    after (.seVxVy 2 3 0) (regs [(2, 0x10), (3, 0x11)]) (fun t => t.pc) = some 0x202 := by decide +kernel
theorem test_sneVxVy : after (.sneVxVy 2 3 0) (regs [(2, 0x10), (3, 0x11)]) (fun t => t.pc) = some 0x204 ∧
    after (.sneVxVy 2 2 0) State.reset (fun t => t.pc) = some 0x202 := by decide +kernel
/-- C18 under both values of BNNN_MASK. -/
theorem test_jpV0Nnn : after (.jpV0Nnn 0xFFF) (regs [(0, 0xFF)]) (fun t => t.pc) = some 0x10FE := by decide +kernel
theorem test_jpV0Nnn_mask12 : after (.jpV0Nnn 0xFFF)
    (withParams (fun p => { p with bnnnMask := .mask12 }) (regs [(0, 0xFF)])) (fun t => t.pc) = some 0xFE := by
  decide +kernel

/-! ### Display -/

/-- D1 and D8: a pixel set before is cleared. -/
theorem test_cls : after .cls { State.reset with fb := State.reset.fb.set 3 0xFF } (fun t => t.fb.pixel 0 3) =
    some false := by decide +kernel
/-- D4, D8. -/
theorem test_drw_wraps : after (.drw 0 1 1) { bytes (regs [(0, 0x3C)]) 0x300 [0xFF] with i := 0x300 }
    (fun t => (t.fb.pixel 59 0, t.fb.pixel 60 0, t.fb.pixel 3 0, t.fb.pixel 4 0, t.v[15])) =
    some (false, true, true, false, 0) := by decide +kernel
theorem test_drw_collides : after (.drw 0 1 1)
    { bytes State.reset 0x300 [0xC0] with i := 0x300, fb := State.reset.fb.set 0 2 }
    (fun t => (t.fb.pixel 0 0, t.fb.pixel 1 0, t.v[15])) = some (true, false, 1) := by decide +kernel

/-! ### Timers and keys -/

/-- T1, T2, T3. -/
theorem test_ldVxDt : after (.ldVxDt 5) { State.reset with dt := 0x3C } (fun t => t.v[5]) = some 0x3C := by
  decide +kernel
theorem test_ldDtVx : after (.ldDtVx 5) (regs [(5, 0x3C)]) (fun t => (t.dt, t.st)) = some (0x3C, 0) := by
  decide +kernel
theorem test_ldStVx : after (.ldStVx 1) (regs [(1, 5)]) (fun t => (t.st, tone t)) = some (5, true) := by
  decide +kernel
/-- T5, T6. -/
theorem test_decrements : (decrementDelayTimer { State.reset with dt := 1 }).dt = 0 ∧
    (decrementDelayTimer State.reset).dt = 0 ∧ (decrementSoundTimer State.reset).st = 0 := by decide +kernel
/-- T7, T11; T9, T10. -/
theorem test_skp : after (.skp 0) ((regs [(0, 10)]).present (keysDown [10]) 0) (fun t => t.pc) = some 0x204 ∧
    after (.skp 0) ((regs [(0, 16)]).present (keysDown []) 0) (fun t => t.result) =
      some (.err (.valueExceedsNibble 16)) := by decide +kernel
theorem test_sknp : after (.sknp 0) ((regs [(0, 10)]).present (keysDown []) 0) (fun t => t.pc) = some 0x204 ∧
    after (.sknp 0) ((regs [(0, 10)]).present (keysDown [10]) 0) (fun t => t.pc) = some 0x202 := by decide +kernel
/-- T12, T13. -/
theorem test_ldVxK_waits : after (.ldVxK 2) (State.reset.present (keysDown []) 0) (fun t => t.pc) = some 0x200 := by
  decide +kernel
theorem test_ldVxK : after (.ldVxK 2) (State.reset.present (keysDown [3]) 0) (fun t => (t.v[2], t.pc)) =
    some (3, 0x202) := by decide +kernel

/-! ### Witnesses: the hypotheses of the statements can be met -/

/-- A running core about to run a word. -/
def ready (w : Nat) : State := State.reset.withFetchWord 16 w

theorem ready_inv (w : Nat) : Inv (ready w) :=
  ⟨Memory.wf_writeList Memory.wf_nil _ (by show 0x200 + 2 ≤ 4096; decide), by show (0x200 : Nat) ≤ 0x10FE; decide,
    fun _ => by show (0 : Nat) < 2 ^ 16; decide, fun k hk => by
      show (Vector.replicate 16 (0 : Word))[k].toNat ≤ 0xFFE
      simp, rfl, fun h => by cases h⟩

/-- A core one step before FX65 fails at 0x1000: it has a fault afterwards and has written no memory. -/
def failing : State := { bytes State.reset 0x200 [0xF2, 0x65] with i := 0xFFE }

theorem failing_inv : Inv failing :=
  ⟨Memory.wf_writeList Memory.wf_nil _ (by decide), by show (0x200 : Nat) ≤ 0x10FE; decide,
    fun _ => by show (0xFFE : Nat) < 2 ^ 16; decide, fun k hk => by
      show (Vector.replicate 16 (0 : Word))[k].toNat ≤ 0xFFE
      simp, rfl, fun h => by cases h⟩

theorem witness_FetchIsBigEndianAndBounded :
    (State.reset.fault = none ∧ State.reset.pc.toNat + 1 < 4096) ∧
    (State.pc { State.reset with pc := 0xFFE }).toNat + 1 < 4096 ∧
    (State.pc { State.reset with pc := 0x1000 }).toNat ≥ 4096 ∧
    (State.pc { State.reset with pc := 0xFFF }).toNat = 4095 := by decide
theorem witness_StepRunsDecodedInstruction :
    (ready 0x6A42).fault = none ∧ (ready 0x6A42).pc.toNat + 1 < 4096 ∧
    decodeWord (ready 0x6A42).params.strict59 (BitVec.ofNat 16 (((ready 0x6A42).mem.read 0x200).toNat * 256 +
      ((ready 0x6A42).mem.read 0x201).toNat)) = .ok (.ldVxNn 10 0x42) ∧
    ∃ t, exec (.ldVxNn 10 0x42) { ready 0x6A42 with result := .ok } = .next t :=
  ⟨rfl, by decide, rfl, _, rfl⟩
theorem witness_OnlyStoppedCoreTakesNoStep :
    State.fault { State.reset with fault := some .refused } = some .refused ∧ State.reset.fault = none := by decide
theorem witness_IllegalWordsRaiseUnknownOpcode :
    IllegalWord false 0x8AB8 ∧ IllegalWord false 0x8ABF ∧ IllegalWord false 0xE39F ∧ IllegalWord false 0xF3FF ∧
    IllegalWord true 0x5121 ∧ IllegalWord true 0x912F ∧ ¬ IllegalWord false 0x5121 ∧ ¬ IllegalWord true 0x8AB7 ∧
    ¬ IllegalWord true 0x8ABE := by
  refine ⟨?_, ?_, ?_, ?_, ?_, ?_, ?_, ?_, ?_⟩ <;> (unfold IllegalWord; decide)
theorem witness_IllegalWord_fetched : fetch (ready 0x8AB8) = .ok 0x8AB8 ∧ (ready 0x8AB8).fault = none := ⟨rfl, rfl⟩
theorem witness_DecodeInvertsEncode :
    (Instr.sys 0x0E1).wellFormed true = true ∧ (Instr.seVxVy 15 15 0).wellFormed true = true ∧
    (Instr.seVxVy 15 15 15).wellFormed false = true ∧ (Instr.drw 15 0 15).wellFormed true = true := by decide
theorem witness_EncodeInvertsDecode : decodeWord true 0xFF65 = .ok (.ldVxMem 15) ∧
    decodeWord false 0x9FFF = .ok (.sneVxVy 15 15 15) := ⟨rfl, rfl⟩
/-- A word of each shape that `Encoded` asks for. -/
theorem witness_Encoded : (0x6FFF : Word) &&& 0xF000 = 0x6000 ∧ (0x8FF0 : Word) &&& 0xF00F = 0x8000 ∧
    (0xFF65 : Word) &&& 0xF0FF = 0xF065 ∧ (0x00EE : Word) &&& 0xFFFF = 0x00EE := by decide
theorem witness_FontLookup : (regs [(5, 15)]).v[5].toNat ≤ 15 ∧ 15 < (regs [(5, 16)]).v[5].toNat := by decide +kernel
theorem witness_Bcd : (State.i { State.reset with i := 4093 }) + 2 < 4096 ∧
    4096 ≤ (State.i { State.reset with i := 4094 }) + 2 := by decide
theorem witness_StoreAndLoad : (State.i { State.reset with i := 4080 }) + (15 : Reg).val < 4096 ∧
    4096 ≤ (State.i { State.reset with i := 4081 }) + (15 : Reg).val := by decide
theorem witness_SysIsRefusedOrNop : (0x0FFF : Word) &&& 0xF000 = 0 ∧ (0x0FFF : Word) ≠ 0x00E0 ∧
    (0x0FFF : Word) ≠ 0x00EE ∧ State.reset.params.sysMode = .refuse ∧
    (withParams (fun p => { p with sysMode := .nop }) State.reset).params.sysMode = .nop := by decide
theorem witness_ReturnResumes : State.reset.sp.val = 0 ∧
    (State.sp { State.reset with sp := 16 }).val = (15 : Fin 16).val + 1 ∧ State.reset.stack[15].toNat < 4096 := by
  decide +kernel
theorem witness_CallPushes : (State.sp { State.reset with sp := 16 }).val = 16 ∧
    (State.sp { State.reset with sp := 15 }).val = (15 : Fin 16).val ∧
    (State.pc { State.reset with pc := 0xFFE }).toNat < 4096 ∧ fetch (ready 0x2ABC) = .ok 0x2ABC :=
  ⟨rfl, rfl, by decide, rfl⟩
theorem witness_SkipsOnRegisters : (0x5FFF : Word) &&& 0xF000 = 0x5000 ∧ (0x9FF0 : Word) &&& 0xF00F = 0x9000 ∧
    (0x5FFF : Word) &&& 0x000F ≠ 0 ∧ (0x9121 : Word) &&& 0xF000 = 0x9000 := by decide
theorem witness_DrawXors : (15 : Nibble) ≠ 0 ∧
    4096 < (State.i { State.reset with i := 4082 }) + (15 : Nibble).toNat ∧
    (State.i { State.reset with i := 4081 }) + (15 : Nibble).toNat ≤ 4096 := by decide
/-- Drawn twice at the same coordinates: with x = y = 0, and with x = F where the flag is the coordinate again. -/
theorem witness_DrawTwice : after (.drw 0 0 5) State.reset (fun t => t.v[0]) = some State.reset.v[0] ∧
    after (.drw 15 0 5) State.reset (fun t => t.v[15]) = some State.reset.v[15] := by decide +kernel
theorem witness_FramebufferPrimitives : (63 < 64 ∧ 31 < 32) ∧ ¬ (64 < 64 ∧ 0 < 32) ∧ ¬ (0 < 64 ∧ 32 < 32) ∧
    ((0, 1) : Nat × Nat) ≠ (0, 0) := by decide
theorem witness_KeySkips : (regs [(0, 15)]).v[0].toNat = (15 : Fin 16).val ∧ 15 < (regs [(0, 16)]).v[0].toNat := by
  decide +kernel
theorem witness_WaitForKey : (∀ k : Fin 16, (State.reset.present (keysDown []) 0).keys[k.val] = false) ∧
    ∃ k : Fin 16, (State.reset.present (keysDown [15]) 0).keys[k.val] = true := by decide +kernel
theorem witness_OnlyTimerLoads : ∃ t u, step (State.setV (ready 0xF515) 5 7) = .next t ∧ t.dt ≠ 0 ∧
    step (State.setV (ready 0xF518) 5 7) = .next u ∧ u.st ≠ 0 :=
  ⟨_, _, rfl, by decide +kernel, rfl, by decide +kernel⟩
theorem witness_PcFollows : (State.pc { State.reset with pc := 0xFFE }).toNat ≤ 4094 ∧
    ∃ t, exec (.jp 0x300) { State.reset with pc := 0xFFE } = .next t := ⟨by decide, _, rfl⟩
/-- A step that raises. -/
theorem witness_failing_step : ∃ t, step failing = .next t ∧ t.fault ≠ none ∧
    t.mem.read failing.pc.toNat = failing.mem.read failing.pc.toNat ∧
    t.mem.read (failing.pc.toNat + 1) = failing.mem.read (failing.pc.toNat + 1) :=
  ⟨_, rfl, by decide +kernel, by decide +kernel, by decide +kernel⟩
theorem witness_ErrorsWithoutPartial : State.reset.fault = none ∧ State.reset.result = .ok ∧
    hasPartialEffect .ret = false ∧ ∃ t, exec .ret State.reset = .next t ∧ t.fault ≠ none :=
  ⟨rfl, rfl, rfl, _, rfl, by decide +kernel⟩
theorem witness_Unreachable : ∃ t, step (ready 0x00EE) = .next t ∧ fetch (ready 0x00EE) = .ok 0x00EE ∧
    decodeWord (ready 0x00EE).params.strict59 0x00EE = .ok .ret := ⟨_, rfl, rfl, rfl⟩
theorem witness_frames : (∃ t, exec (.addVxVy 1 15) State.reset = .next t) ∧
    (∃ t, exec (.call 0x300) State.reset = .next t) ∧ (∃ t, exec (.ldMemVx 15) State.reset = .next t) ∧
    (∃ t, exec (.drw 1 2 15) State.reset = .next t) ∧ (1 : Reg) ≠ 2 ∧ ¬ ((0 : Nat) ≤ 16 ∧ 16 ≤ 0 + (15 : Reg).val) :=
  ⟨⟨_, rfl⟩, ⟨_, rfl⟩, ⟨_, rfl⟩, ⟨_, rfl⟩, by decide, by decide⟩
theorem witness_StepKeepsInvariant : Inv (ready 0x2ABC) ∧ ∃ t, step (ready 0x2ABC) = .next t := ⟨ready_inv _, _, rfl⟩
theorem witness_IdleLoop : AtIdleLoop (ready 0x1200) := ⟨rfl, 0x1200, 0x200, rfl, rfl, rfl⟩
/-- C4's slot left above SP: it may hold anything. -/
theorem witness_DeadSlots : AgreeOnLiveSlots (ready 0x00EE) { ready 0x00EE with stack := Vector.replicate 16 0xABC } :=
  ⟨rfl, fun _ _ h => absurd h (Nat.not_lt_zero _)⟩
theorem witness_UnusedInputs : readsInputs (.ldVxNn 1 2) = false ∧ ∃ t, exec (.ldVxNn 1 2) State.reset = .next t :=
  ⟨rfl, _, rfl⟩
theorem witness_StoreIsSeen : (∃ t, exec (.ldMemVx 1) { State.reset with i := 0x202 } = .next t) ∧ 1 ≤ (1 : Reg).val ∧
    (State.i { State.reset with i := 0x202 }) = State.reset.pc.toNat + 2 ∧ 0x202 + (1 : Reg).val < 4096 :=
  ⟨⟨_, rfl⟩, by decide, by decide, by decide⟩
theorem witness_LoadProgram : (1 ≤ (List.replicate 3584 (0 : Byte)).length ∧
    (List.replicate 3584 (0 : Byte)).length ≤ 3584) ∧
    ¬ (1 ≤ (List.replicate 3585 (0 : Byte)).length ∧ (List.replicate 3585 (0 : Byte)).length ≤ 3584) ∧
    ¬ (1 ≤ ([] : List Byte).length) := by
  rw [List.length_replicate, List.length_replicate]; decide
theorem witness_MemoryAccesses : 4095 < 4096 ∧ 4096 ≤ 4096 ∧ 255 < 256 ∧ 255 ≤ 255 := by decide

end Sys2Proof.Machine.Tests
end

section
/-! The encoding statements: the fetch (30_encoding.md R71) and the opcode map (R84). -/

open Sys2Proof Sys2Proof.Machine

namespace Sys2Proof

/-! ### Fetch -/

/-- Big-endian order as a number (20_memory.md R53). -/
theorem wordOfBytes_eq_ofNat (hi lo : Byte) : wordOfBytes hi lo = BitVec.ofNat 16 (hi.toNat * 256 + lo.toNat) := by
  apply BitVec.eq_of_toNat_eq
  have happend : (wordOfBytes hi lo).toNat = hi.toNat * 2 ^ 8 + lo.toNat := toNat_append_eq hi lo
  rw [happend, BitVec.toNat_ofNat]
  omega

namespace Machine

theorem fetch_inside {s : State} (h : s.pc.toNat + 1 < 4096) :
    fetch s = .ok (BitVec.ofNat 16 ((s.mem.read s.pc.toNat).toNat * 256 + (s.mem.read (s.pc.toNat + 1)).toNat)) := by
  rw [fetch_eq, memSize, if_pos h, wordOfBytes_eq_ofNat]

theorem fetch_outside {s : State} (h : 4095 ≤ s.pc.toNat) :
    fetch s = .error (.outOfRange (max s.pc.toNat 4096)) := by
  rw [fetch_eq, memSize, if_neg (by omega)]

/-- The address handed out is PC, or 4096 where only the second byte is outside. -/
theorem step_fetch_outside {s : State} (hf : s.fault = none) (h : 4095 ≤ s.pc.toNat) :
    step s = .next { s with fault := some .outOfRange, result := .err (.outOfRange (max s.pc.toNat 4096)),
                            inputs := s.inputs.tail, draws := s.draws + 1 } :=
  step_fetch_error hf (fetch_outside h)

end Machine

/-! ### Rows of the opcode map by what they read of a word -/

/-- The row is the one a word selects by mask and match (R84). -/
def TableRow.selects (w : Word) (r : TableRow) : Bool := decide (w &&& r.mask = r.pattern)

/-- A row matched on the whole word. -/
def wordRow (m : String) (p : Word) : TableRow := ⟨m, 0xFFFF, p⟩
/-- A row matched on the family. -/
def famRow (m : String) (o : Nibble) : TableRow := ⟨m, 0xF000, fmtNNN o 0⟩
/-- A row matched on the family and n. -/
def nRow (m : String) (o n : Nibble) : TableRow := ⟨m, 0xF00F, fmtXYN o 0 0 n⟩
/-- A row matched on the family and nn. -/
def nnRow (m : String) (o : Nibble) (nn : Byte) : TableRow := ⟨m, 0xF0FF, fmtXNN o 0 nn⟩
/-- Rows 8 and 20, whose mask takes n in under STRICT_5_9 (R85). -/
def strictRow (strict : Bool) (m : String) (o : Nibble) : TableRow := if strict then nRow m o 0 else famRow m o

@[simp] theorem wordRow_mnemonic (m : String) (p : Word) : (wordRow m p).mnemonic = m := rfl
@[simp] theorem famRow_mnemonic (m : String) (o : Nibble) : (famRow m o).mnemonic = m := rfl
@[simp] theorem nRow_mnemonic (m : String) (o n : Nibble) : (nRow m o n).mnemonic = m := rfl
@[simp] theorem nnRow_mnemonic (m : String) (o : Nibble) (nn : Byte) : (nnRow m o nn).mnemonic = m := rfl
@[simp] theorem strictRow_mnemonic (strict : Bool) (m : String) (o : Nibble) :
    (strictRow strict m o).mnemonic = m := by
  cases strict <;> rfl

@[simp] theorem wordRow_selects (w : Word) (m : String) (p : Word) :
    (wordRow m p).selects w = true ↔ w = p := by
  have hall : w &&& 0xFFFF = w := BitVec.and_allOnes
  rw [TableRow.selects, wordRow, hall, decide_eq_true_iff]

@[simp] theorem famRow_selects (w : Word) (m : String) (o : Nibble) :
    (famRow m o).selects w = true ↔ (famField w).toNat = o.toNat := by
  rw [BitVec.toNat_inj, ← and_F000_eq_iff, TableRow.selects, famRow, decide_eq_true_iff]

@[simp] theorem nRow_selects (w : Word) (m : String) (o n : Nibble) :
    (nRow m o n).selects w = true ↔ (famField w).toNat = o.toNat ∧ (nField w).toNat = n.toNat := by
  rw [BitVec.toNat_inj, BitVec.toNat_inj, ← and_F00F_eq_iff, TableRow.selects, nRow, decide_eq_true_iff]

@[simp] theorem nnRow_selects (w : Word) (m : String) (o : Nibble) (nn : Byte) :
    (nnRow m o nn).selects w = true ↔ (famField w).toNat = o.toNat ∧ nnField w = nn := by
  rw [BitVec.toNat_inj, ← and_F0FF_eq_iff, TableRow.selects, nnRow, decide_eq_true_iff]

@[simp] theorem strictRow_selects (w : Word) (strict : Bool) (m : String) (o : Nibble) :
    (strictRow strict m o).selects w = true ↔
      (famField w).toNat = o.toNat ∧ (strict = true → nField w = 0) := by
  cases strict <;> simp [strictRow, ← BitVec.toNat_inj]

/-- R84 with each row written by what it reads. -/
theorem opcodeTable_eq (strict : Bool) : opcodeTable strict =
    [wordRow "CLS" 0x00E0, wordRow "RET" 0x00EE, famRow "SYS" 0x0, famRow "JP" 0x1, famRow "CALL" 0x2,
     famRow "SE_Vx_nn" 0x3, famRow "SNE_Vx_nn" 0x4, strictRow strict "SE_Vx_Vy" 0x5, famRow "LD_Vx_nn" 0x6,
     famRow "ADD_Vx_nn" 0x7, nRow "LD_Vx_Vy" 0x8 0x0, nRow "OR" 0x8 0x1, nRow "AND" 0x8 0x2, nRow "XOR" 0x8 0x3,
     nRow "ADD_Vx_Vy" 0x8 0x4, nRow "SUB" 0x8 0x5, nRow "SHR" 0x8 0x6, nRow "SUBN" 0x8 0x7, nRow "SHL" 0x8 0xE,
     strictRow strict "SNE_Vx_Vy" 0x9, famRow "LD_I_nnn" 0xA, famRow "JP_V0_nnn" 0xB, famRow "RND" 0xC,
     famRow "DRW" 0xD, nnRow "SKP" 0xE 0x9E, nnRow "SKNP" 0xE 0xA1, nnRow "LD_Vx_DT" 0xF 0x07,
     nnRow "LD_Vx_K" 0xF 0x0A, nnRow "LD_DT_Vx" 0xF 0x15, nnRow "LD_ST_Vx" 0xF 0x18, nnRow "ADD_I_Vx" 0xF 0x1E,
     nnRow "LD_F_Vx" 0xF 0x29, nnRow "LD_B_Vx" 0xF 0x33, nnRow "LD__I__Vx" 0xF 0x55, nnRow "LD_Vx__I" 0xF 0x65] := by
  cases strict <;> rfl

/-! ### The first row that matches -/

/-- What R84 answers for a word: the mnemonic of the first row selected, or UnknownOpcode. -/
def rowsAnswer (w : Word) (rows : List TableRow) : Except DecodeError String :=
  match rows.find? (TableRow.selects w) with
  | some r => .ok r.mnemonic
  | none => .error (.unknownOpcode w)

@[simp] theorem rowsAnswer_nil (w : Word) : rowsAnswer w [] = .error (.unknownOpcode w) := rfl

@[simp] theorem rowsAnswer_cons (w : Word) (r : TableRow) (rows : List TableRow) :
    rowsAnswer w (r :: rows) = if r.selects w then .ok r.mnemonic else rowsAnswer w rows := by
  cases h : r.selects w <;> simp [rowsAnswer, h]

/-! ### What each dispatch of the decoder answers, by mnemonic -/

@[simp] theorem map_mnemonic_ok (i : Instr) :
    (Except.ok i : Except DecodeError Instr).map Instr.mnemonic = .ok i.mnemonic := rfl

@[simp] theorem map_mnemonic_error (e : DecodeError) :
    (Except.error e : Except DecodeError Instr).map Instr.mnemonic = .error e := rfl

theorem decodeFam0_mnemonic (w : Word) :
    (decodeFam0 w).mnemonic = if w = 0x00E0 then "CLS" else if w = 0x00EE then "RET" else "SYS" := by
  unfold decodeFam0
  split_ifs <;> rfl

theorem decodeFam59_mnemonic (strict : Bool) {mk : Reg → Reg → Nibble → Instr} {m : String}
    (hmk : ∀ x y n, (mk x y n).mnemonic = m) {w : Word} {o : Nibble} (ho : (famField w).toNat = o.toNat) :
    (decodeFam59 strict mk w).map Instr.mnemonic = rowsAnswer w [strictRow strict m o] := by
  by_cases hbad : strict = true ∧ nField w ≠ 0
  · have hsel : ¬ (strictRow strict m o).selects w = true := fun h =>
      hbad.2 (((strictRow_selects w strict m o).1 h).2 hbad.1)
    rw [decodeFam59, if_pos hbad, map_mnemonic_error, rowsAnswer_cons, if_neg hsel, rowsAnswer_nil]
  · have hsel : (strictRow strict m o).selects w = true :=
      (strictRow_selects w strict m o).2 ⟨ho, fun hs => not_not.1 fun hn => hbad ⟨hs, hn⟩⟩
    rw [decodeFam59, if_neg hbad, map_mnemonic_ok, hmk, rowsAnswer_cons, if_pos hsel, strictRow_mnemonic]

theorem decodeFam8_mnemonic {w : Word} (ho : (famField w).toNat = 0x8) :
    (decodeFam8 w).map Instr.mnemonic = rowsAnswer w
      [nRow "LD_Vx_Vy" 0x8 0x0, nRow "OR" 0x8 0x1, nRow "AND" 0x8 0x2, nRow "XOR" 0x8 0x3, nRow "ADD_Vx_Vy" 0x8 0x4,
       nRow "SUB" 0x8 0x5, nRow "SHR" 0x8 0x6, nRow "SUBN" 0x8 0x7, nRow "SHL" 0x8 0xE] := by
  unfold decodeFam8
  split <;> simp_all [Instr.mnemonic]

theorem decodeFamE_mnemonic {w : Word} (ho : (famField w).toNat = 0xE) :
    (decodeFamE w).map Instr.mnemonic = rowsAnswer w [nnRow "SKP" 0xE 0x9E, nnRow "SKNP" 0xE 0xA1] := by
  simp [decodeFamE, ho, apply_ite (Except.map Instr.mnemonic), Instr.mnemonic]

theorem decodeFamF_mnemonic {w : Word} (ho : (famField w).toNat = 0xF) :
    (decodeFamF w).map Instr.mnemonic = rowsAnswer w
      [nnRow "LD_Vx_DT" 0xF 0x07, nnRow "LD_Vx_K" 0xF 0x0A, nnRow "LD_DT_Vx" 0xF 0x15, nnRow "LD_ST_Vx" 0xF 0x18,
       nnRow "ADD_I_Vx" 0xF 0x1E, nnRow "LD_F_Vx" 0xF 0x29, nnRow "LD_B_Vx" 0xF 0x33, nnRow "LD__I__Vx" 0xF 0x55,
       nnRow "LD_Vx__I" 0xF 0x65] := by
  simp [decodeFamF, ho, apply_ite (Except.map Instr.mnemonic), Instr.mnemonic]

/-- Rows 1 and 2 match words of family 0 only. -/
theorem ne_of_famField_ne {w p : Word} (h : (famField w).toNat ≠ (famField p).toNat) : w ≠ p :=
  fun e => h (by rw [e])

/-- R84: decoding answers the mnemonic of the first row selected, or UnknownOpcode where none is. -/
theorem decodeWord_mnemonic (strict : Bool) (w : Word) :
    (decodeWord strict w).map Instr.mnemonic = rowsAnswer w (opcodeTable strict) := by
  rw [opcodeTable_eq]
  by_cases h0 : (famField w).toNat = 0
  · simp [h0, decodeWord, decodeFam0_mnemonic, apply_ite (Except.ok (ε := DecodeError))]
  have hCLS : w ≠ 0x00E0#16 := ne_of_famField_ne h0
  have hRET : w ≠ 0x00EE#16 := ne_of_famField_ne h0
  unfold decodeWord
  split -- the arm of family k is the case h_(k + 1); families 5, 8, 9, E and F dispatch again
  case h_1 ho => exact absurd ho h0
  case h_6 ho =>
    rw [decodeFam59_mnemonic strict (m := "SE_Vx_Vy") (o := 5) (fun _ _ _ => rfl) ho]
    simp [ho, hCLS, hRET]
  case h_9 ho => rw [decodeFam8_mnemonic ho]; simp [ho, hCLS, hRET]
  case h_10 ho =>
    rw [decodeFam59_mnemonic strict (m := "SNE_Vx_Vy") (o := 9) (fun _ _ _ => rfl) ho]
    simp [ho, hCLS, hRET]
  case h_15 ho => rw [decodeFamE_mnemonic ho]; simp [ho, hCLS, hRET]
  case h_16 ho => rw [decodeFamF_mnemonic ho]; simp [ho, hCLS, hRET]
  case h_17 =>
    have hlt : (famField w).toNat < 16 := (famField w).isLt
    simp only [imp_false] at *
    omega
  case h_2 ho | h_3 ho | h_4 ho | h_5 ho | h_7 ho | h_8 ho | h_11 ho | h_12 ho | h_13 ho | h_14 ho =>
    simp [ho, hCLS, hRET, Instr.mnemonic]

theorem decodeWord_of_row {strict : Bool} {w : Word} {r : TableRow}
    (h : (opcodeTable strict).find? (TableRow.selects w) = some r) :
    ∃ i, decodeWord strict w = .ok i ∧ i.mnemonic = r.mnemonic := by
  have hanswer := decodeWord_mnemonic strict w
  rw [rowsAnswer, h] at hanswer
  cases hdec : decodeWord strict w with
  | ok i => rw [hdec] at hanswer; exact ⟨i, rfl, Except.ok.inj hanswer⟩
  | error e => rw [hdec] at hanswer; cases hanswer

theorem decodeWord_of_no_row {strict : Bool} {w : Word}
    (h : (opcodeTable strict).find? (TableRow.selects w) = none) :
    decodeWord strict w = .error (.unknownOpcode w) := by
  have hanswer := decodeWord_mnemonic strict w
  rw [rowsAnswer, h] at hanswer
  cases hdec : decodeWord strict w with
  | ok i => rw [hdec] at hanswer; cases hanswer
  | error e => rw [hdec] at hanswer; exact congrArg _ (Except.error.inj hanswer)

end Sys2Proof

/-- Settles O2, from the one equation of `fetch` and the step of a fetch that fails. -/
theorem fetchIsBigEndianAndBounded : Obligations.FetchIsBigEndianAndBounded := by
  intro s
  refine ⟨fetch_inside, ⟨?_, ?_⟩, fun hf hpc => ?_, fun hf hpc => ?_⟩
  · rintro ⟨w, hw⟩
    have hpc := pc_of_fetch hw
    omega
  · exact fun hpc => ⟨_, fetch_inside (by omega)⟩
  · simpa [max_eq_left hpc] using step_fetch_outside hf (by omega)
  · simpa [hpc] using step_fetch_outside hf (by omega)

/-- Settles O6, from `decodeWord_mnemonic`: the decoder and the table answer the same for every word. -/
theorem decodeFollowsOpcodeTable : Obligations.DecodeFollowsOpcodeTable := by
  intro strict w
  split
  next r hrow => exact decodeWord_of_row hrow
  next hrow =>
    have hdec := decodeWord_of_no_row hrow
    refine ⟨hdec, fun s hf hstrict hw => ?_⟩
    subst hstrict
    exact ⟨_, step_unknown hf hw hdec, rfl⟩

end

section
/-! The loads and the random byte of 41_arith_logic.md (R102, R104, R113). -/

open Sys2Proof Sys2Proof.Machine

namespace Sys2Proof.Machine

/-! ### Words of a row, from what the decoder answers for their fields -/

theorem encoded_fam {o : Nibble} {f : Word → Instr}
    (h : ∀ strict w, famField w = o → decodeWord strict w = .ok (f w)) : Encoded 0xF000 (fmtNNN o 0) f :=
  fun strict w hw => h strict w ((and_F000_eq_iff w o).1 hw)

theorem encoded_fam_n {o n : Nibble} {f : Word → Instr}
    (h : ∀ strict w, famField w = o → nField w = n → decodeWord strict w = .ok (f w)) :
    Encoded 0xF00F (fmtXYN o 0 0 n) f := by
  intro strict w hw
  obtain ⟨ho, hn⟩ := (and_F00F_eq_iff w o n).1 hw
  exact h strict w ho hn

theorem decodeWord_fam8 (strict : Bool) {w : Word} (ho : famField w = 0x8) : decodeWord strict w = decodeFam8 w := by
  simp [decodeWord, ho]

theorem encoded_ldVxNn : Encoded 0xF000 0x6000 (fun w => .ldVxNn (xReg w) (nnField w)) :=
  encoded_fam (o := 0x6) fun strict w ho => by simp [decodeWord, ho]

theorem encoded_ldVxVy : Encoded 0xF00F 0x8000 (fun w => .ldVxVy (xReg w) (yReg w)) :=
  encoded_fam_n (o := 0x8) (n := 0x0) fun strict w ho hn => by
    rw [decodeWord_fam8 strict ho]
    simp [decodeFam8, hn]

theorem encoded_rnd : Encoded 0xF000 0xC000 (fun w => .rnd (xReg w) (nnField w)) :=
  encoded_fam (o := 0xC) fun strict w ho => by simp [decodeWord, ho]

/-! ### What the instructions do, over the operations of the state -/

theorem exec_ldVxNn (x : Reg) (nn : Byte) (s : State) : exec (.ldVxNn x nn) s = .next (s.setV x nn).advance := rfl

theorem exec_ldVxVy (x y : Reg) (s : State) : exec (.ldVxVy x y) s = .next (s.setV x (s.getV y)).advance := rfl

theorem exec_rnd (x : Reg) (nn : Byte) (s : State) : exec (.rnd x nn) s = .next (s.setV x (s.rnd &&& nn)).advance := rfl

/-- Only V[r] and PC differ: every other field is literally that of the state before. -/
theorem State.advance_setV (s : State) (r : Reg) (b : Byte) :
    (s.setV r b).advance = { s with v := s.v.set r.val b, pc := s.pc + 2 } := rfl

theorem State.getV_eq (s : State) (r : Reg) : s.getV r = s.v[r.val] := rfl

/-- The byte the host presents is the byte the next step draws (R250). -/
@[simp] theorem State.rnd_present (s : State) (keys : Keys) (r : Byte) : (s.present keys r).rnd = r := rfl

end Sys2Proof.Machine

/-- Settles O10: the two encodings, and a load is one register write and the advance. -/
theorem loadRegisterStoresValue : Obligations.LoadRegisterStoresValue := by
  refine ⟨encoded_ldVxNn, encoded_ldVxVy, fun x y nn s => ⟨?_, ?_⟩⟩
  · rw [exec_ldVxNn, State.advance_setV]
  · rw [exec_ldVxVy, State.advance_setV, State.getV_eq]

/-- Settles O16: the encoding, one register write and the advance, and the byte the host presents. -/
theorem randomIsAndedWithImmediate : Obligations.RandomIsAndedWithImmediate := by
  refine ⟨encoded_rnd, fun x nn s => ⟨?_, s.rnd_present⟩⟩
  rw [exec_rnd, State.advance_setV]

end

section
/-! The index register: the load and the font lookup of 42_memory_index.md (R141, R143). -/

open Sys2Proof Sys2Proof.Machine

namespace Sys2Proof.Machine

/-! ### Words of family F, from what the decoder answers for nn -/

theorem encoded_fam_nn {o : Nibble} {nn : Byte} {f : Word → Instr}
    (h : ∀ strict w, famField w = o → nnField w = nn → decodeWord strict w = .ok (f w)) :
    Encoded 0xF0FF (fmtXNN o 0 nn) f := by
  intro strict w hw
  obtain ⟨ho, hnn⟩ := (and_F0FF_eq_iff w o nn).1 hw
  exact h strict w ho hnn

theorem decodeWord_famF (strict : Bool) {w : Word} (ho : famField w = 0xF) : decodeWord strict w = decodeFamF w := by
  simp [decodeWord, ho]

theorem encoded_ldINnn : Encoded 0xF000 0xA000 (fun w => .ldINnn (nnnField w)) :=
  encoded_fam (o := 0xA) fun strict w ho => by simp [decodeWord, ho]

theorem encoded_ldFVx : Encoded 0xF0FF 0xF029 (fun w => .ldFVx (xReg w)) :=
  encoded_fam_nn (o := 0xF) (nn := 0x29) fun strict w ho hnn => by
    rw [decodeWord_famF strict ho]
    simp [decodeFamF, hnn]

/-! ### A register value as a digit (R143, R214, R215) -/

theorem nibbleArg_ok {v : Byte} (h : v.toNat ≤ 15) : nibbleArg v = .ok ⟨v.toNat, Nat.lt_succ_of_le h⟩ := by
  rw [nibbleArg_eq, dif_pos (Nat.lt_succ_of_le h)]

theorem nibbleArg_error {v : Byte} (h : 15 < v.toNat) : nibbleArg v = .error (.valueExceedsNibble v.toNat) := by
  rw [nibbleArg_eq, dif_neg (Nat.not_lt.2 h)]

/-! ### What the instructions do, over the operations of the state -/

theorem exec_ldINnn (nnn : Addr12) (s : State) : exec (.ldINnn nnn) s = .next (s.setI nnn.toNat).advance := rfl

theorem exec_ldFVx_digit {x : Reg} {s : State} (h : (s.getV x).toNat ≤ 15) :
    exec (.ldFVx x) s = .next (s.setI ((s.getV x).toNat * 5)).advance := by
  rw [exec, execLdFVx, nibbleArg_ok h]; rfl

theorem exec_ldFVx_above {x : Reg} {s : State} (h : 15 < (s.getV x).toNat) :
    exec (.ldFVx x) s = .next (s.raised (.valueExceedsNibble (s.getV x).toNat)) := by
  rw [exec, execLdFVx, nibbleArg_error h]; rfl

/-- Only I and PC differ: every other field is literally that of the state before. -/
theorem State.advance_setI (s : State) (a : Nat) : (s.setI a).advance = { s with i := a, pc := s.pc + 2 } := rfl

/-- Only `fault` and the result differ: I and PC keep their values (R236). -/
theorem State.raised_valueExceedsNibble (s : State) (k : Nat) :
    s.raised (.valueExceedsNibble k) =
      { s with fault := some .valueExceedsNibble, result := .err (.valueExceedsNibble k) } := rfl

end Sys2Proof.Machine

/-- Settles O17: the encoding, one write of I and the advance, and the 12 bits of nnn. -/
theorem loadIndexZeroExtends : Obligations.LoadIndexZeroExtends := by
  refine ⟨encoded_ldINnn, fun nnn s => ⟨?_, nnn.isLt⟩⟩
  rw [exec_ldINnn, State.advance_setI]

/-- Settles O19: the encoding, and the two answers of the digit check at 15. -/
theorem fontLookupPointsAtGlyph : Obligations.FontLookupPointsAtGlyph := by
  refine ⟨encoded_ldFVx, fun x s => ⟨fun hdigit => ?_, fun habove => ?_⟩⟩
  · rw [exec_ldFVx_digit hdigit, State.advance_setI, State.getV_eq]
  · rw [exec_ldFVx_above habove, State.raised_valueExceedsNibble, State.getV_eq]

end

section
/-! The jumps, the skips, the subroutine calls and SYS of 43_control_flow.md (R161 to R169). -/

open Sys2Proof Sys2Proof.Machine

namespace Sys2Proof.Machine

/-! ### Words of families 0, 1 to 4 and B, from what the decoder answers for their fields -/

theorem encoded_word {p : Word} {i : Instr} (h : ∀ strict, decodeWord strict p = .ok i) :
    Encoded 0xFFFF p (fun _ => i) := by
  intro strict w hw
  have hall : w &&& 0xFFFF = w := BitVec.and_allOnes
  rw [hall] at hw
  rw [hw, h]

theorem encoded_ret : Encoded 0xFFFF 0x00EE (fun _ => .ret) :=
  encoded_word fun strict => Laws.RoundTrip.ret strict rfl

theorem encoded_jp : Encoded 0xF000 0x1000 (fun w => .jp (nnnField w)) :=
  encoded_fam (o := 0x1) fun strict w ho => by simp [decodeWord, ho]

theorem encoded_call : Encoded 0xF000 0x2000 (fun w => .call (nnnField w)) :=
  encoded_fam (o := 0x2) fun strict w ho => by simp [decodeWord, ho]

theorem encoded_seVxNn : Encoded 0xF000 0x3000 (fun w => .seVxNn (xReg w) (nnField w)) :=
  encoded_fam (o := 0x3) fun strict w ho => by simp [decodeWord, ho]

theorem encoded_sneVxNn : Encoded 0xF000 0x4000 (fun w => .sneVxNn (xReg w) (nnField w)) :=
  encoded_fam (o := 0x4) fun strict w ho => by simp [decodeWord, ho]

theorem encoded_jpV0Nnn : Encoded 0xF000 0xB000 (fun w => .jpV0Nnn (nnnField w)) :=
  encoded_fam (o := 0xB) fun strict w ho => by simp [decodeWord, ho]

/-- R76: what is left of family 0 beside 00E0 and 00EE. -/
theorem decodeWord_sys (strict : Bool) {w : Word} (ho : famField w = 0x0) (hCLS : w ≠ 0x00E0) (hRET : w ≠ 0x00EE) :
    decodeWord strict w = .ok (.sys (nnnField w)) := by
  have hfam : decodeWord strict w = .ok (decodeFam0 w) := by simp [decodeWord, ho]
  rw [hfam, decodeFam0, if_neg hCLS, if_neg hRET]

/-! ### Words of families 5 and 9 (R85) -/

theorem decodeWord_fam5 (strict : Bool) {w : Word} (ho : famField w = 0x5) :
    decodeWord strict w = decodeFam59 strict .seVxVy w := by
  simp [decodeWord, ho]

theorem decodeWord_fam9 (strict : Bool) {w : Word} (ho : famField w = 0x9) :
    decodeWord strict w = decodeFam59 strict .sneVxVy w := by
  simp [decodeWord, ho]

theorem decodeFam59_lenient (mk : Reg → Reg → Nibble → Instr) (w : Word) :
    decodeFam59 false mk w = .ok (mk (xReg w) (yReg w) (nField w)) := by
  simp [decodeFam59]

theorem decodeFam59_strict_zero (mk : Reg → Reg → Nibble → Instr) {w : Word} (hn : nField w = 0) :
    decodeFam59 true mk w = .ok (mk (xReg w) (yReg w) 0) := by
  simp [decodeFam59, hn]

theorem decodeFam59_strict_nonzero (mk : Reg → Reg → Nibble → Instr) {w : Word} (hn : nField w ≠ 0) :
    decodeFam59 true mk w = .error (.unknownOpcode w) := by
  rw [decodeFam59, if_pos ⟨rfl, hn⟩]

/-- Mask 000F reads n. -/
theorem and_000F_eq_zero_iff (w : Word) : w &&& 0x000F = 0 ↔ nField w = 0 := by
  have hmask : (w &&& 0x000F).toNat = (nField w).toNat := by
    rw [BitVec.toNat_and, nField_toNat]
    exact Nat.and_two_pow_sub_one_eq_mod w.toNat 4
  rw [← BitVec.toNat_inj, hmask, ← BitVec.toNat_inj]
  rfl

/-! ### The targets as numbers (R78) -/

theorem nnnTarget_toNat (nnn : Addr12) : (nnnTarget nnn).toNat = nnn.toNat := by
  rw [nnnTarget, nnnAddr, BitVec.toNat_ofNat]
  omega

/-- The sum is at most 0x10FE, so 16 bits hold it (R169). -/
theorem offsetTarget_toNat (m : BnnnMask) (nnn : Addr12) (v0 : Byte) :
    (offsetTarget m nnn v0).toNat =
      if m = .unmasked then nnn.toNat + v0.toNat else (nnn.toNat + v0.toNat) % 4096 := by
  cases m with
  | unmasked => rw [offsetTarget, nnnAddr, BitVec.toNat_ofNat, if_pos rfl]; omega
  | mask12 => rw [offsetTarget, nnnAddr, BitVec.toNat_ofNat, if_neg (by decide)]; omega

theorem returnTarget_eq (r : RetAdvance) (a : Word) :
    returnTarget r a = a + if r = .plus2 then 2 else 0 := by
  cases r with
  | plus2 => rfl
  | asPopped => exact (BitVec.add_zero a).symm

/-! ### The call stack (R32, R33) -/

theorem push_full {s : State} (h : s.sp.val = 16) (a : Word) : push s a = .error (.stackOverflow a.toNat) := by
  rw [push, dif_neg (by omega)]

theorem push_room {s : State} (h : s.sp.val < 16) {a : Word} (ha : a.toNat < 4096) :
    push s a = .ok { s with stack := s.stack.set s.sp.val a, sp := ⟨s.sp.val + 1, by omega⟩ } := by
  rw [push, dif_pos h, memSize_eq, if_pos ha]

theorem pop_empty {s : State} (h : s.sp.val = 0) : pop s = (s, .error .stackUnderflow) := by
  rw [pop, if_pos h]

theorem pop_inside {s : State} (h : s.sp.val ≠ 0) (ha : s.topSlot.toNat < 4096) :
    pop s = (s.popped, .ok s.topSlot) := by
  rw [State.topSlot] at ha ⊢
  rw [pop, if_neg h, memSize_eq, if_pos ha]

theorem State.topSlot_eq {s : State} {k : Fin 16} (h : s.sp.val = k.val + 1) : s.topSlot = s.stack[k.val] := by
  have hk : s.sp.val - 1 = k.val := by omega
  simp only [State.topSlot, hk]

/-! ### What the instructions do, over the operations of the state -/

theorem exec_sys_refuse {s : State} (h : s.params.sysMode = .refuse) (nnn : Addr12) :
    exec (.sys nnn) s = .next s.refusedState := by
  rw [exec, execSys, h]; rfl

theorem exec_sys_nop {s : State} (h : s.params.sysMode = .nop) (nnn : Addr12) :
    exec (.sys nnn) s = .next s.advance := by
  rw [exec, execSys, h]

theorem exec_jp (nnn : Addr12) (s : State) : exec (.jp nnn) s = .next (s.jumpTo (nnnTarget nnn)) := rfl

theorem exec_jpV0Nnn (nnn : Addr12) (s : State) :
    exec (.jpV0Nnn nnn) s = .next (s.jumpTo (offsetTarget s.params.bnnnMask nnn (s.getV 0))) := rfl

theorem exec_call_full {s : State} (h : s.sp.val = 16) (nnn : Addr12) :
    exec (.call nnn) s = .next (s.raised (.stackOverflow s.pc.toNat)) := by
  rw [exec, execCall, push_full h]; rfl

theorem exec_call_room {s : State} (h : s.sp.val < 16) (hpc : s.pc.toNat < 4096) (nnn : Addr12) :
    exec (.call nnn) s = .next { s with stack := s.stack.set s.sp.val s.pc, sp := ⟨s.sp.val + 1, by omega⟩,
                                        pc := nnnTarget nnn } := by
  rw [exec, execCall, push_room h hpc]; rfl

theorem exec_ret_empty {s : State} (h : s.sp.val = 0) : exec .ret s = .next (s.raised .stackUnderflow) := by
  rw [exec, execRet, pop_empty h]; rfl

theorem exec_ret_inside {s : State} (h : s.sp.val ≠ 0) (ha : s.topSlot.toNat < 4096) :
    exec .ret s = .next (s.popped.jumpTo (returnTarget s.params.retAdvance s.topSlot)) := by
  rw [exec, execRet, pop_inside h ha]

theorem exec_seVxNn (x : Reg) (nn : Byte) (s : State) :
    exec (.seVxNn x nn) s = .next (s.skipIf (s.getV x == nn)) := rfl

theorem exec_sneVxNn (x : Reg) (nn : Byte) (s : State) :
    exec (.sneVxNn x nn) s = .next (s.skipIf (s.getV x != nn)) := rfl

theorem exec_seVxVy (x y : Reg) (n : Nibble) (s : State) :
    exec (.seVxVy x y n) s = .next (s.skipIf (s.getV x == s.getV y)) := rfl

theorem exec_sneVxVy (x y : Reg) (n : Nibble) (s : State) :
    exec (.sneVxVy x y n) s = .next (s.skipIf (s.getV x != s.getV y)) := rfl

/-! ### Only PC differs: every other field is literally that of the state before -/

theorem State.skipIf_beq (s : State) (a b : Byte) :
    s.skipIf (a == b) = { s with pc := if a = b then s.pc + 4 else s.pc + 2 } := by
  by_cases h : a = b <;> simp [State.skipIf, State.jumpTo, h]

theorem State.skipIf_bne (s : State) (a b : Byte) :
    s.skipIf (a != b) = { s with pc := if a = b then s.pc + 2 else s.pc + 4 } := by
  by_cases h : a = b <;> simp [State.skipIf, State.jumpTo, h]

end Sys2Proof.Machine

/-- Settles O23: the words of family 0, and the two values of SYS_MODE. -/
theorem sysIsRefusedOrNop : Obligations.SysIsRefusedOrNop := by
  refine ⟨fun strict w hw => decodeWord_sys strict ((and_F000_eq_iff w 0x0).1 hw), fun nnn s =>
    ⟨fun hmode => exec_sys_refuse hmode nnn, fun hmode => exec_sys_nop hmode nnn⟩⟩

/-- Settles O24: the encoding, the two answers of Pop at SP = 0 and above, and the slots of the invariant. -/
theorem returnResumesAtPoppedAddress : Obligations.ReturnResumesAtPoppedAddress := by
  refine ⟨encoded_ret, fun s => ⟨fun hsp => exec_ret_empty hsp, fun k hsp hslot => ?_, fun hinv k => ?_⟩⟩
  · rw [← State.topSlot_eq hsp] at hslot ⊢
    refine ⟨_, exec_ret_inside (by omega) hslot, ?_, ?_⟩
    · exact Nat.sub_eq_of_eq_add hsp
    · rw [returnTarget_eq]; rfl
  · have hle := hinv.slot_le k.val k.isLt
    omega

/-- Settles O25: the encodings, and the targets as numbers. -/
theorem jumpsSetAbsoluteTarget : Obligations.JumpsSetAbsoluteTarget := by
  refine ⟨encoded_jp, encoded_jpV0Nnn, fun nnn s =>
    ⟨⟨_, exec_jp nnn s, rfl, ?_⟩, ⟨_, exec_jpV0Nnn nnn s, rfl, ?_⟩⟩⟩
  · rw [State.jumpTo_pc, nnnTarget_toNat]
  · rw [State.jumpTo_pc, offsetTarget_toNat]; rfl

/-- Settles O26: the encoding, the two answers of Push at SP = 16 and below, and where a fetch succeeds. -/
theorem callPushesItsOwnAddress : Obligations.CallPushesItsOwnAddress := by
  refine ⟨encoded_call, fun nnn s => ⟨fun hsp => exec_call_full hsp nnn, fun k hsp hpc => ?_, fun w hw => ?_⟩⟩
  · have hroom : s.sp.val < 16 := hsp ▸ k.isLt
    refine ⟨_, exec_call_room hroom hpc nnn, ?_, nnnTarget_toNat nnn, ?_⟩
    · simp only [hsp]
    · simp only [hsp]
  · have hlt := pc_of_fetch hw
    omega

/-- Settles O27: the encodings, and a skip on two equal bytes. -/
theorem skipsOnImmediate : Obligations.SkipsOnImmediate := by
  refine ⟨encoded_seVxNn, encoded_sneVxNn, fun x nn s => ⟨?_, ?_⟩⟩
  · rw [exec_seVxNn, State.skipIf_beq, State.getV_eq]
  · rw [exec_sneVxNn, State.skipIf_bne, State.getV_eq]

/-- Settles O28: families 5 and 9 under both values of STRICT_5_9, and a skip on two equal registers. -/
theorem skipsOnRegisters : Obligations.SkipsOnRegisters := by
  refine ⟨fun w => ⟨fun hw => ?_, fun hw => ?_, fun hw => ?_, fun hw => ?_, fun hw hn => ?_⟩,
    fun x y n s => ⟨?_, ?_⟩⟩
  · rw [decodeWord_fam5 false ((and_F000_eq_iff w 0x5).1 hw), decodeFam59_lenient]
  · rw [decodeWord_fam9 false ((and_F000_eq_iff w 0x9).1 hw), decodeFam59_lenient]
  · obtain ⟨ho, hn⟩ := (and_F00F_eq_iff w 0x5 0x0).1 hw
    rw [decodeWord_fam5 true ho, decodeFam59_strict_zero _ hn]
  · obtain ⟨ho, hn⟩ := (and_F00F_eq_iff w 0x9 0x0).1 hw
    rw [decodeWord_fam9 true ho, decodeFam59_strict_zero _ hn]
  · have hn' : nField w ≠ 0 := mt (and_000F_eq_zero_iff w).2 hn
    rcases hw with hw | hw
    · rw [decodeWord_fam5 true ((and_F000_eq_iff w 0x5).1 hw), decodeFam59_strict_nonzero _ hn']
    · rw [decodeWord_fam9 true ((and_F000_eq_iff w 0x9).1 hw), decodeFam59_strict_nonzero _ hn']
  · rw [exec_seVxVy, State.skipIf_beq, State.getV_eq, State.getV_eq]
  · rw [exec_sneVxVy, State.skipIf_bne, State.getV_eq, State.getV_eq]

end

section
/-! The display: CLS and DRW of 44_display.md (R191, R192). -/

open Sys2Proof Sys2Proof.Machine

namespace Sys2Proof.Machine

theorem encoded_cls : Encoded 0xFFFF 0x00E0 (fun _ => .cls) :=
  encoded_word fun strict => Laws.RoundTrip.cls strict rfl

theorem encoded_drw : Encoded 0xF000 0xD000 (fun w => .drw (xReg w) (yReg w) (nField w)) :=
  encoded_fam (o := 0xD) fun strict w ho => by simp [decodeWord, ho]

/-! ### The pixels of a sprite, by row and column (R192) -/

theorem mem_rowBits {ox y : Nat} {row : Byte} {p : Nat × Nat × Bool} :
    p ∈ rowBits ox y row ↔ ∃ c < 8, ((ox + c) % 64, y % 32, row.getLsbD (7 - c)) = p := by
  simp [rowBits]

theorem mem_spriteBits {ox oy : Nat} {rows : List Byte} {p : Nat × Nat × Bool} :
    p ∈ spriteBits ox oy rows ↔ ∃ r row, rows[r]? = some row ∧ p ∈ rowBits ox (oy + r) row := by
  induction rows generalizing oy with
  | nil => simp [spriteBits]
  | cons row rows ih =>
    rw [spriteBits, List.mem_append, ih]
    constructor
    · rintro (hp | ⟨r, row', hrow', hp⟩)
      · exact ⟨0, row, rfl, hp⟩
      · exact ⟨r + 1, row', hrow', by rwa [← add_assoc, add_right_comm]⟩
    · rintro ⟨_ | r, row', hrow', hp⟩
      · cases hrow'
        exact .inl hp
      · exact .inr ⟨r, row', hrow', by rwa [add_right_comm, add_assoc]⟩

/-- Wrapping keeps every pixel inside the grid. -/
theorem spriteBits_inside {ox oy : Nat} {rows : List Byte} :
    ∀ p ∈ spriteBits ox oy rows, p.1 < 64 ∧ p.2.1 < 32 := by
  intro p hp
  obtain ⟨r, row, -, hp⟩ := mem_spriteBits.1 hp
  obtain ⟨c, -, rfl⟩ := mem_rowBits.1 hp
  exact ⟨Nat.mod_lt _ (by decide), Nat.mod_lt _ (by decide)⟩

/-- The 8 columns of a row differ modulo 64. -/
theorem rowBits_distinct (ox y : Nat) (row : Byte) :
    (rowBits ox y row).Pairwise (fun p q => ¬ (p.1 = q.1 ∧ p.2.1 = q.2.1)) := by
  rw [rowBits, List.pairwise_map]
  refine List.pairwise_lt_range.imp_of_mem fun {c d} hc hd hcd => ?_
  rw [List.mem_range] at hc hd
  rintro ⟨hcol, -⟩
  have hcol : (ox + c) % 64 = (ox + d) % 64 := hcol
  omega

/-- The rows of a sprite of at most 32 rows differ modulo 32, so no two of its pixels land at one place. -/
theorem spriteBits_distinct (ox oy : Nat) (rows : List Byte) (hlen : rows.length ≤ 32) :
    (spriteBits ox oy rows).Pairwise (fun p q => ¬ (p.1 = q.1 ∧ p.2.1 = q.2.1)) := by
  induction rows generalizing oy with
  | nil => exact List.Pairwise.nil
  | cons row rows ih =>
    rw [List.length_cons] at hlen
    rw [spriteBits, List.pairwise_append]
    refine ⟨rowBits_distinct ox oy row, ih (oy + 1) (by omega), ?_⟩
    rintro p hp q hq ⟨-, hrow⟩
    obtain ⟨c, -, rfl⟩ := mem_rowBits.1 hp
    obtain ⟨r, row', hrow', hq⟩ := mem_spriteBits.1 hq
    obtain ⟨d, -, rfl⟩ := mem_rowBits.1 hq
    have hr : r < rows.length := (List.getElem?_eq_some_iff.1 hrow').1
    have hrow : oy % 32 = (oy + 1 + r) % 32 := hrow
    omega

/-! ### The bit a list of pixels brings to a place, and the collision -/

theorem bitsAt_iff {ps : List (Nat × Nat × Bool)} {x y : Nat} : bitsAt ps x y = true ↔ (x, y, true) ∈ ps := by
  simp [bitsAt]

/-- A pixel flips exactly under a set bit. -/
theorem xor_ne_left_iff (a b : Bool) : (a ^^ b) ≠ a ↔ b = true := by
  cases a <;> cases b <;> decide

/-- Once each pixel is XORed with its bit, a set bit met a set pixel exactly when some set pixel is clear. -/
theorem collision_iff {ps : List (Nat × Nat × Bool)} {f g : Framebuffer}
    (hin : ∀ p ∈ ps, p.1 < 64 ∧ p.2.1 < 32) (hg : ∀ x y, g.pixel x y = (f.pixel x y ^^ bitsAt ps x y)) :
    ps.any (fun p => f.pixel p.1 p.2.1 && p.2.2) = true ↔
      ∃ x y, x < 64 ∧ y < 32 ∧ f.pixel x y = true ∧ g.pixel x y = false := by
  rw [List.any_eq_true]
  constructor
  · rintro ⟨⟨x, y, b⟩, hp, hhit⟩
    obtain ⟨hset, rfl⟩ := Bool.and_eq_true_iff.1 hhit
    obtain ⟨hx, hy⟩ := hin _ hp
    exact ⟨x, y, hx, hy, hset, by rw [hg, hset, bitsAt_iff.2 hp]; rfl⟩
  · rintro ⟨x, y, -, -, hset, hclear⟩
    rw [hg, hset, Bool.true_xor, Bool.not_eq_false'] at hclear
    exact ⟨(x, y, true), bitsAt_iff.1 hclear, by rw [hset]; rfl⟩

/-! ### The sprite that DRW draws -/

/-- The rows DRW reads: `n` bytes from I on (R192). -/
def State.spriteRows (s : State) (n : Nat) : List Byte := (List.range n).map (fun r => s.mem.read (s.i + r))

/-- The pixels DRW draws, with the origin of Vx and Vy before VF is written (R192). -/
def State.spritePixels (s : State) (x y : Reg) (n : Nibble) : List (Nat × Nat × Bool) :=
  spriteBits (s.getV x).toNat (s.getV y).toNat (s.spriteRows n.toNat)

theorem readBytes_spriteRows {s : State} {n : Nat} (h : s.i + n ≤ 4096) :
    readBytes s s.i n = .ok (s.spriteRows n) := by
  rw [readBytes_eq, memSize_eq, if_pos (by omega), State.spriteRows]

theorem readBytes_outside {s : State} {n : Nat} (hn : n ≠ 0) (h : 4096 < s.i + n) :
    readBytes s s.i n = .error (.outOfRange (max s.i 4096)) := by
  rw [readBytes_eq, memSize_eq, if_neg (by omega)]

theorem State.spriteRows_getElem? (s : State) (n r : Nat) (row : Byte) :
    (s.spriteRows n)[r]? = some row ↔ r < n ∧ s.mem.read (s.i + r) = row := by
  simp [State.spriteRows, List.getElem?_eq_some_iff]

theorem State.length_spriteRows (s : State) (n : Nat) : (s.spriteRows n).length = n := by
  simp [State.spriteRows]

/-- Where a set bit of the sprite lands: row r, column c at Vx + c and Vy + r, wrapped. -/
theorem State.bitsAt_spritePixels (s : State) (x y : Reg) (n : Nibble) (px py : Nat) :
    bitsAt (s.spritePixels x y n) px py = true ↔
      ∃ r c, r < n.toNat ∧ c < 8 ∧ (s.mem.read (s.i + r)).getLsbD (7 - c) = true ∧
        (s.v[x.val].toNat + c) % 64 = px ∧ (s.v[y.val].toNat + r) % 32 = py := by
  rw [bitsAt_iff, State.spritePixels, mem_spriteBits]
  constructor
  · rintro ⟨r, row, hrow, hp⟩
    obtain ⟨hr, rfl⟩ := (s.spriteRows_getElem? _ _ _).1 hrow
    obtain ⟨c, hc, hp⟩ := mem_rowBits.1 hp
    obtain ⟨hpx, hpy, hbit⟩ := by simpa only [Prod.mk.injEq] using hp
    exact ⟨r, c, hr, hc, hbit, hpx, hpy⟩
  · rintro ⟨r, c, hr, hc, hbit, hpx, hpy⟩
    refine ⟨r, _, (s.spriteRows_getElem? _ _ _).2 ⟨hr, rfl⟩, mem_rowBits.2 ⟨c, hc, ?_⟩⟩
    rw [hbit, State.getV_eq, State.getV_eq, hpx, hpy]

theorem drawBits_spritePixels (s : State) (x y : Reg) (n : Nibble) :
    ∃ g hit, drawBits (s.spritePixels x y n) s.fb false = .ok (g, hit) ∧
      (∀ px py, g.pixel px py = (s.fb.pixel px py ^^ bitsAt (s.spritePixels x y n) px py)) ∧
      (hit = true ↔ ∃ px py, px < 64 ∧ py < 32 ∧ s.fb.pixel px py = true ∧ g.pixel px py = false) := by
  have hlen : (s.spriteRows n.toNat).length ≤ 32 := by
    rw [State.length_spriteRows]
    omega
  obtain ⟨g, hdraw, hg⟩ := drawBits_eq (s.spritePixels x y n) s.fb false spriteBits_inside
    (spriteBits_distinct _ _ _ hlen)
  refine ⟨g, _, hdraw, hg, ?_⟩
  rw [Bool.false_or]
  exact collision_iff spriteBits_inside hg

/-! ### What the instructions do, over the operations of the state -/

theorem checkHeight_ok {n : Nibble} (h : n ≠ 0) : checkHeight n.toNat = .ok () := by
  have hpos : n.toNat ≠ 0 := BitVec.toNat_ne_iff_ne.2 h
  rw [checkHeight, if_pos (by omega)]

theorem exec_cls (s : State) : exec .cls s = .next (s.setFb fbClear).advance := rfl

theorem exec_drw_zero (x y : Reg) (s : State) :
    exec (.drw x y 0) s = .next (s.raised (.invalidSpriteHeight 0)) := rfl

theorem exec_drw_outside {n : Nibble} {s : State} (hn : n ≠ 0) (h : 4096 < s.i + n.toNat) (x y : Reg) :
    exec (.drw x y n) s = .next (s.raised (.outOfRange (max s.i 4096))) := by
  rw [exec, execDrw, checkHeight_ok hn, readBytes_outside (BitVec.toNat_ne_iff_ne.2 hn) h]; rfl

theorem exec_drw_inside {x y : Reg} {n : Nibble} {s : State} (hn : n ≠ 0) (h : s.i + n.toNat ≤ 4096)
    {g : Framebuffer} {hit : Bool} (hdraw : drawBits (s.spritePixels x y n) s.fb false = .ok (g, hit)) :
    exec (.drw x y n) s = .next ((s.setFb g).setFlag hit).advance := by
  rw [State.spritePixels] at hdraw
  rw [exec, execDrw, checkHeight_ok hn, readBytes_spriteRows h]
  simp only [hdraw]

/-! ### Only the pixels, VF and PC differ -/

theorem State.advance_setFb (s : State) (f : Framebuffer) : (s.setFb f).advance = { s with fb := f, pc := s.pc + 2 } :=
  rfl

theorem State.setFlag_vf (s : State) (f : Bool) : (s.setFlag f).v[15] = if f then 1 else 0 := by
  simp

theorem flagByte_eq_one_iff (f : Bool) : (if f then 1 else 0 : Byte) = 1 ↔ f = true := by
  cases f <;> decide

end Sys2Proof.Machine

/-- Settles O31: the encoding, the two errors, and a drawing whose pixels lie inside the grid at distinct places. -/
theorem drawXorsWrappedSprite : Obligations.DrawXorsWrappedSprite := by
  refine ⟨encoded_drw, fun x y n s => ⟨fun hn => ?_, fun hn hout => exec_drw_outside hn hout x y, fun hn hin => ?_⟩⟩
  · rw [hn, exec_drw_zero]; rfl
  · obtain ⟨g, hit, hdraw, hg, hhit⟩ := drawBits_spritePixels s x y n
    have hvf : ((s.setFb g).setFlag hit).advance.v[15] = if hit then 1 else 0 := State.setFlag_vf _ hit
    refine ⟨_, exec_drw_inside hn hin hdraw, ?_, fun px py _ _ => ?_, ?_, ?_⟩
    · rw [hvf]; rfl
    · rw [← State.bitsAt_spritePixels, State.advance_fb, State.setFlag_fb, State.setFb_fb, hg, xor_ne_left_iff]
    · rw [hvf]
      cases hit with
      | true => exact .inl rfl
      | false => exact .inr rfl
    · rw [hvf, flagByte_eq_one_iff, hhit]; rfl

/-- Settles O30: the encoding, and the cleared framebuffer has no pixel set. -/
theorem clearDisplayClearsEveryPixel : Obligations.ClearDisplayClearsEveryPixel :=
  ⟨encoded_cls, fun s => ⟨_, exec_cls s, pixel_fbClear, s.advance_setFb fbClear⟩⟩

end

section
/-! The timer loads of 45_timers_keypad.md (R211, R212, R213). -/

open Sys2Proof Sys2Proof.Machine

namespace Sys2Proof.Machine

/-! ### Words of family F, by nn alone -/

theorem encoded_famF {nn : Byte} {f : Word → Instr} (h : ∀ w, nnField w = nn → decodeFamF w = .ok (f w)) :
    Encoded 0xF0FF (fmtXNN 0xF 0 nn) f :=
  encoded_fam_nn fun strict w ho hnn => (decodeWord_famF strict ho).trans (h w hnn)

theorem encoded_ldVxDt : Encoded 0xF0FF 0xF007 (fun w => .ldVxDt (xReg w)) :=
  encoded_famF (nn := 0x07) fun w hnn => by simp [decodeFamF, hnn]

theorem encoded_ldDtVx : Encoded 0xF0FF 0xF015 (fun w => .ldDtVx (xReg w)) :=
  encoded_famF (nn := 0x15) fun w hnn => by simp [decodeFamF, hnn]

theorem encoded_ldStVx : Encoded 0xF0FF 0xF018 (fun w => .ldStVx (xReg w)) :=
  encoded_famF (nn := 0x18) fun w hnn => by simp [decodeFamF, hnn]

/-! ### What the instructions do, over the operations of the state -/

theorem exec_ldVxDt (x : Reg) (s : State) : exec (.ldVxDt x) s = .next (s.setV x s.dt).advance := rfl

theorem exec_ldDtVx (x : Reg) (s : State) : exec (.ldDtVx x) s = .next (s.setDt (s.getV x)).advance := rfl

theorem exec_ldStVx (x : Reg) (s : State) : exec (.ldStVx x) s = .next (s.setSt (s.getV x)).advance := rfl

/-- Only DT and PC differ: every other field is literally that of the state before. -/
theorem State.advance_setDt (s : State) (b : Byte) : (s.setDt b).advance = { s with dt := b, pc := s.pc + 2 } := rfl

/-- Only ST and PC differ: every other field is literally that of the state before. -/
theorem State.advance_setSt (s : State) (b : Byte) : (s.setSt b).advance = { s with st := b, pc := s.pc + 2 } := rfl

/-- The tone is on exactly while ST is not 0 (R247). -/
theorem tone_eq_true_iff (s : State) : tone s = true ↔ s.st ≠ 0 := bne_iff_ne

end Sys2Proof.Machine

/-- Settles O34: the encodings, one register or timer write and the advance, and the tone of the ST just written. -/
theorem timerLoadsMoveTimers : Obligations.TimerLoadsMoveTimers := by
  refine ⟨encoded_ldVxDt, encoded_ldDtVx, encoded_ldStVx, fun x s => ⟨?_, ?_, _, exec_ldStVx x s, ?_, ?_⟩⟩
  · rw [exec_ldVxDt, State.advance_setV]
  · rw [exec_ldDtVx, State.advance_setDt, State.getV_eq]
  · rw [State.advance_setSt, State.getV_eq]
  · rw [tone_eq_true_iff, State.advance_st, State.setSt_st, State.getV_eq]

end

section
/-! Encode and decode are inverse (30_encoding.md R72, R73, R84), and which words are illegal (R77, R79, R85). -/

open Sys2Proof Sys2Proof.Machine

namespace Sys2Proof

/-! ### A word is its format filled with its fields -/

theorem fmtNNN_of_fam {w : Word} {o : Nibble} (ho : (famField w).toNat = o.toNat) : fmtNNN o (nnnField w) = w := by
  rw [← BitVec.eq_of_toNat_eq ho, fmtNNN_fields]

theorem fmtXNN_of_fam {w : Word} {o : Nibble} (ho : (famField w).toNat = o.toNat) :
    fmtXNN o (xReg w) (nnField w) = w := by
  rw [← BitVec.eq_of_toNat_eq ho, fmtXNN_fields]

theorem fmtXYN_of_fam {w : Word} {o : Nibble} (ho : (famField w).toNat = o.toNat) :
    fmtXYN o (xReg w) (yReg w) (nField w) = w := by
  rw [← BitVec.eq_of_toNat_eq ho, fmtXYN_fields]

theorem fmtXNN_of_fam_nn {w : Word} {o : Nibble} {nn : Byte} (ho : (famField w).toNat = o.toNat)
    (hnn : nnField w = nn) : fmtXNN o (xReg w) nn = w := by
  rw [← hnn, fmtXNN_of_fam ho]

theorem fmtXYN_of_fam_n {w : Word} {o n : Nibble} (ho : (famField w).toNat = o.toNat)
    (hn : (nField w).toNat = n.toNat) : fmtXYN o (xReg w) (yReg w) n = w := by
  rw [← BitVec.eq_of_toNat_eq hn, fmtXYN_of_fam ho]

theorem wordOfBytes_highByte_lowByte (w : Word) : wordOfBytes (highByte w) (lowByte w) = w := by
  apply BitVec.eq_of_toNat_eq
  rw [wordOfBytes_eq_ofNat, highByte, lowByte]
  simp only [BitVec.toNat_ofNat, BitVec.extractLsb'_toNat, Nat.shiftRight_eq_div_pow]
  omega

theorem decodeBytes_bytesOfWord (strict : Bool) (w : Word) (rest : List Byte) :
    decodeBytes strict (bytesOfWord w ++ rest) = (decodeWord strict w).map (fun i => (i, rest)) := by
  have hbytes : decodeBytes strict (bytesOfWord w ++ rest) =
      match decodeWord strict (wordOfBytes (highByte w) (lowByte w)) with
      | .ok i => .ok (i, rest)
      | .error e => .error e := rfl
  rw [hbytes, wordOfBytes_highByte_lowByte]
  cases decodeWord strict w <;> rfl

/-! ### Decode after encode -/

/-- The round trips of Laws/PerInstr, one per instruction, as one statement. -/
theorem decodeWord_encode (i : Instr) : Laws.RoundTrip.Statement i := by
  cases i with
  | cls => exact Laws.RoundTrip.cls
  | ret => exact Laws.RoundTrip.ret
  | sys nnn => exact Laws.RoundTrip.sys nnn
  | jp nnn => exact Laws.RoundTrip.jp nnn
  | call nnn => exact Laws.RoundTrip.call nnn
  | seVxNn x nn => exact Laws.RoundTrip.seVxNn x nn
  | sneVxNn x nn => exact Laws.RoundTrip.sneVxNn x nn
  | seVxVy x y n => exact Laws.RoundTrip.seVxVy x y n
  | ldVxNn x nn => exact Laws.RoundTrip.ldVxNn x nn
  | addVxNn x nn => exact Laws.RoundTrip.addVxNn x nn
  | ldVxVy x y => exact Laws.RoundTrip.ldVxVy x y
  | orVxVy x y => exact Laws.RoundTrip.orVxVy x y
  | andVxVy x y => exact Laws.RoundTrip.andVxVy x y
  | xorVxVy x y => exact Laws.RoundTrip.xorVxVy x y
  | addVxVy x y => exact Laws.RoundTrip.addVxVy x y
  | subVxVy x y => exact Laws.RoundTrip.subVxVy x y
  | shr x y => exact Laws.RoundTrip.shr x y
  | subn x y => exact Laws.RoundTrip.subn x y
  | shl x y => exact Laws.RoundTrip.shl x y
  | sneVxVy x y n => exact Laws.RoundTrip.sneVxVy x y n
  | ldINnn nnn => exact Laws.RoundTrip.ldINnn nnn
  | jpV0Nnn nnn => exact Laws.RoundTrip.jpV0Nnn nnn
  | rnd x nn => exact Laws.RoundTrip.rnd x nn
  | drw x y n => exact Laws.RoundTrip.drw x y n
  | skp x => exact Laws.RoundTrip.skp x
  | sknp x => exact Laws.RoundTrip.sknp x
  | ldVxDt x => exact Laws.RoundTrip.ldVxDt x
  | ldVxK x => exact Laws.RoundTrip.ldVxK x
  | ldDtVx x => exact Laws.RoundTrip.ldDtVx x
  | ldStVx x => exact Laws.RoundTrip.ldStVx x
  | addIVx x => exact Laws.RoundTrip.addIVx x
  | ldFVx x => exact Laws.RoundTrip.ldFVx x
  | ldBVx x => exact Laws.RoundTrip.ldBVx x
  | ldMemVx x => exact Laws.RoundTrip.ldMemVx x
  | ldVxMem x => exact Laws.RoundTrip.ldVxMem x

/-! ### Encode after decode -/

/-- A decoded instruction stands for its word: it is well formed and encodes to it. -/
def Instr.StandsFor (strict : Bool) (w : Word) (i : Instr) : Prop := i.wellFormed strict = true ∧ encode i = w

theorem decodeFam0_standsFor {strict : Bool} {w : Word} (ho : (famField w).toNat = 0x0) :
    (decodeFam0 w).StandsFor strict w := by
  unfold decodeFam0
  split_ifs with hCLS hRET
  · exact ⟨rfl, hCLS.symm⟩
  · exact ⟨rfl, hRET.symm⟩
  · have hw : fmtNNN 0x0 (nnnField w) = w := fmtNNN_of_fam ho
    refine ⟨?_, hw⟩
    have h0E0 : nnnField w ≠ 0x0E0 := fun h => hCLS (by rw [← hw, h]; rfl)
    have h0EE : nnnField w ≠ 0x0EE := fun h => hRET (by rw [← hw, h]; rfl)
    exact Bool.and_eq_true_iff.2 ⟨bne_iff_ne.2 h0E0, bne_iff_ne.2 h0EE⟩

theorem decodeFam59_standsFor {strict : Bool} {mk : Reg → Reg → Nibble → Instr} {w : Word} {i : Instr} {o : Nibble}
    (hmk : ∀ x y n, encode (mk x y n) = fmtXYN o x y n ∧ (mk x y n).wellFormed strict = (!strict || n == 0))
    (ho : (famField w).toNat = o.toNat) (h : decodeFam59 strict mk w = .ok i) : i.StandsFor strict w := by
  unfold decodeFam59 at h
  split_ifs at h with hbad
  cases h
  refine ⟨?_, ?_⟩
  · rw [(hmk _ _ _).2]
    cases strict <;> simp_all
  · rw [(hmk _ _ _).1, fmtXYN_of_fam ho]

theorem decodeFam8_standsFor {strict : Bool} {w : Word} {i : Instr} (ho : (famField w).toNat = 0x8)
    (h : decodeFam8 w = .ok i) : i.StandsFor strict w := by
  unfold decodeFam8 at h
  split at h <;> cases h
  all_goals exact ⟨rfl, fmtXYN_of_fam_n ho ‹_›⟩

theorem decodeFamE_standsFor {strict : Bool} {w : Word} {i : Instr} (ho : (famField w).toNat = 0xE)
    (h : decodeFamE w = .ok i) : i.StandsFor strict w := by
  unfold decodeFamE at h
  split_ifs at h with h9E hA1 <;> cases h
  all_goals exact ⟨rfl, fmtXNN_of_fam_nn ho ‹_›⟩

theorem decodeFamF_standsFor {strict : Bool} {w : Word} {i : Instr} (ho : (famField w).toNat = 0xF)
    (h : decodeFamF w = .ok i) : i.StandsFor strict w := by
  unfold decodeFamF at h
  split_ifs at h <;> cases h
  all_goals exact ⟨rfl, fmtXNN_of_fam_nn ho ‹_›⟩

/-- Decoding drops no bit. -/
theorem decodeWord_standsFor {strict : Bool} {w : Word} {i : Instr} (h : decodeWord strict w = .ok i) :
    i.StandsFor strict w := by
  unfold decodeWord at h
  split at h -- the arm of family k is the case h_(k + 1), as in `decodeWord_mnemonic`
  case h_1 ho => cases h; exact decodeFam0_standsFor ho
  case h_6 ho => exact decodeFam59_standsFor (o := 0x5) (fun _ _ _ => ⟨rfl, rfl⟩) ho h
  case h_9 ho => exact decodeFam8_standsFor ho h
  case h_10 ho => exact decodeFam59_standsFor (o := 0x9) (fun _ _ _ => ⟨rfl, rfl⟩) ho h
  case h_15 ho => exact decodeFamE_standsFor ho h
  case h_16 ho => exact decodeFamF_standsFor ho h
  case h_17 => cases h
  case h_2 ho | h_3 ho | h_11 ho | h_12 ho => cases h; exact ⟨rfl, fmtNNN_of_fam ho⟩
  case h_4 ho | h_5 ho | h_7 ho | h_8 ho | h_13 ho => cases h; exact ⟨rfl, fmtXNN_of_fam ho⟩
  case h_14 ho => cases h; exact ⟨rfl, fmtXYN_of_fam ho⟩

/-! ### Illegal words (R77, R79, R85) -/

/-- What a dispatch answers when exactly the words that meet `bad` are of no instruction. -/
def RejectsExactly (w : Word) (bad : Prop) (r : Except DecodeError Instr) : Prop :=
  (bad → r = .error (.unknownOpcode w)) ∧ (¬ bad → ∃ i, r = .ok i)

theorem rejectsExactly_ok (w : Word) {bad : Prop} (hbad : ¬ bad) (i : Instr) : RejectsExactly w bad (.ok i) :=
  ⟨fun h => absurd h hbad, fun _ => ⟨i, rfl⟩⟩

theorem rejectsExactly_error (w : Word) {bad : Prop} (hbad : bad) :
    RejectsExactly w bad (.error (.unknownOpcode w)) :=
  ⟨fun _ => rfl, fun h => absurd hbad h⟩

theorem decodeFam59_rejects (strict : Bool) (mk : Reg → Reg → Nibble → Instr) (w : Word) :
    RejectsExactly w (strict = true ∧ nField w ≠ 0) (decodeFam59 strict mk w) := by
  unfold decodeFam59
  split_ifs with hbad
  · exact rejectsExactly_error w hbad
  · exact rejectsExactly_ok w hbad _

/-- The values of n family 8 leaves unused. -/
theorem nibble_unused_iff (n : Nibble) :
    n ∈ [0x8#4, 0x9#4, 0xA#4, 0xB#4, 0xC#4, 0xD#4, 0xF#4] ↔ 8 ≤ n.toNat ∧ n.toNat ≠ 0xE := by
  revert n; decide

theorem decodeFam8_rejects (w : Word) :
    RejectsExactly w (nField w ∈ [0x8#4, 0x9#4, 0xA#4, 0xB#4, 0xC#4, 0xD#4, 0xF#4]) (decodeFam8 w) := by
  rw [nibble_unused_iff]
  unfold decodeFam8
  split
  case h_10 => exact rejectsExactly_error w (by simp only [imp_false] at *; omega)
  all_goals exact rejectsExactly_ok w (by omega) _

theorem decodeFamE_rejects (w : Word) : RejectsExactly w (nnField w ∉ [0x9E#8, 0xA1#8]) (decodeFamE w) := by
  unfold decodeFamE
  split_ifs with h9E hA1
  · exact rejectsExactly_ok w (by simp [h9E]) _
  · exact rejectsExactly_ok w (by simp [hA1]) _
  · exact rejectsExactly_error w (by simp_all)

theorem decodeFamF_rejects (w : Word) :
    RejectsExactly w (nnField w ∉ [0x07#8, 0x0A#8, 0x15#8, 0x18#8, 0x1E#8, 0x29#8, 0x33#8, 0x55#8, 0x65#8])
      (decodeFamF w) := by
  unfold decodeFamF
  split_ifs
  case neg => exact rejectsExactly_error w (by simp_all)
  all_goals exact rejectsExactly_ok w (by simp [*]) _

/-- R79: exactly the illegal words are of no instruction. -/
theorem decodeWord_rejects (strict : Bool) (w : Word) :
    RejectsExactly w (IllegalWord strict w) (decodeWord strict w) := by
  have hill : IllegalWord strict w ↔
      ((famField w).toNat = 0x8 ∧ nField w ∈ [0x8#4, 0x9#4, 0xA#4, 0xB#4, 0xC#4, 0xD#4, 0xF#4]) ∨
      ((famField w).toNat = 0xE ∧ nnField w ∉ [0x9E#8, 0xA1#8]) ∨
      ((famField w).toNat = 0xF ∧
        nnField w ∉ [0x07#8, 0x0A#8, 0x15#8, 0x18#8, 0x1E#8, 0x29#8, 0x33#8, 0x55#8, 0x65#8]) ∨
      (strict = true ∧ ((famField w).toNat = 0x5 ∨ (famField w).toNat = 0x9) ∧ nField w ≠ 0) := by
    simp only [IllegalWord, ← BitVec.toNat_inj (x := famField w)]; rfl
  unfold decodeWord
  split -- the arm of family k is the case h_(k + 1), as in `decodeWord_mnemonic`
  case h_6 ho => simpa [hill, ho] using decodeFam59_rejects strict .seVxVy w
  case h_9 ho => simpa [hill, ho] using decodeFam8_rejects w
  case h_10 ho => simpa [hill, ho] using decodeFam59_rejects strict .sneVxVy w
  case h_15 ho => simpa [hill, ho] using decodeFamE_rejects w
  case h_16 ho => simpa [hill, ho] using decodeFamF_rejects w
  case h_17 =>
    have hlt : (famField w).toNat < 16 := (famField w).isLt
    simp only [imp_false] at *
    omega
  case h_1 ho | h_2 ho | h_3 ho | h_4 ho | h_5 ho | h_7 ho | h_8 ho | h_11 ho | h_12 ho | h_13 ho | h_14 ho =>
    exact rejectsExactly_ok w (by simp [hill, ho]) _

end Sys2Proof

/-- Settles O7: the round trip of every instruction, and the bytes of a word are its word. -/
theorem decodeInvertsEncode : Obligations.DecodeInvertsEncode := by
  intro strict i hwf
  have hdec := decodeWord_encode i strict hwf
  refine ⟨hdec, fun rest => ?_⟩
  rw [decodeBytes_bytesOfWord, hdec]; rfl

/-- Settles O5: the words the decoder rejects, and the step of a word of no instruction. -/
theorem illegalWordsRaiseUnknownOpcode : Obligations.IllegalWordsRaiseUnknownOpcode :=
  ⟨decodeWord_rejects, fun _ w hf hw hill => step_unknown hf hw ((decodeWord_rejects _ w).1 hill)⟩

/-- Settles O8, family by family. -/
theorem encodeInvertsDecode : Obligations.EncodeInvertsDecode :=
  fun _ _ _ h => decodeWord_standsFor h

/-- Settles O9: the eight words, decoded. -/
theorem sampleWordsDecode : Obligations.SampleWordsDecode := ⟨rfl, rfl, rfl, rfl, rfl, rfl, rfl, rfl⟩
end

section
/-! What every instruction does, once: `exec i s` answers the state `s.outcome i`, made of the error table `specErr`
(60_exceptions.md R231), the refusal `specRefused` (R241), the policy `specPc` (30_encoding.md R78) and, field by
field, what the instruction writes. Every whole-machine statement below reads its fields from here. -/

open Sys2Proof Sys2Proof.Machine

namespace Sys2Proof.Machine

/-! ### The fields of the state after an instruction that completes -/

/-- What DRW leaves: the pixels, and whether one was turned off (R192). -/
def State.drawn (s : State) (x y : Reg) (n : Nibble) : Framebuffer × Bool :=
  match drawBits (s.spritePixels x y n) s.fb false with
  | .ok r => r
  | .error _ => (s.fb, false)

/-- The registers FX65 leaves: those of the range whose byte lies inside memory are loaded (R146, R237). -/
@[irreducible] def State.loaded (s : State) (x : Reg) : Vector Byte 16 :=
  Vector.ofFn fun q : Reg => if q ≤ x ∧ s.i + q.val < 4096 then s.mem.read (s.i + q.val) else s.getV q

/-- The memory FX33 and FX55 leave: the bytes from I on are stored as far as they lie inside memory (R144, R145,
R237). -/
def State.stored (s : State) (vs : List Nat) : Memory :=
  s.mem.writeList s.i ((vs.take (4096 - s.i)).map (BitVec.ofNat 8))

/-- The general registers (R100 to R113, R146, R192, R211, R216). -/
def State.vAfter (s : State) : Instr → Vector Byte 16
  | .ldVxNn x nn => (s.setV x nn).v
  | .addVxNn x nn => (s.setV x (addByte (s.getV x) nn)).v
  | .ldVxVy x y => (s.setV x (s.getV y)).v
  | .orVxVy x y => (s.setV x (s.getV x ||| s.getV y)).v
  | .andVxVy x y => (s.setV x (s.getV x &&& s.getV y)).v
  | .xorVxVy x y => (s.setV x (s.getV x ^^^ s.getV y)).v
  | .addVxVy x y => (s.setResultFlag x (addByte (s.getV x) (s.getV y)) (carryOf (s.getV x) (s.getV y))).v
  | .subVxVy x y => (s.setResultFlag x (subByte (s.getV x) (s.getV y))
      (subFlagOf s.params.subFlagPolarity (s.getV x) (s.getV y))).v
  | .shr x _ => (s.setResultFlag x (shrByte (s.getV x)) (shrFlagOf (s.getV x))).v
  | .subn x y => (s.setResultFlag x (subByte (s.getV y) (s.getV x))
      (subFlagOf s.params.subFlagPolarity (s.getV y) (s.getV x))).v
  | .shl x _ => (s.setResultFlag x (shlByte (s.getV x)) (shlFlagOf (s.getV x))).v
  | .rnd x nn => (s.setV x (s.rnd &&& nn)).v
  | .drw x y n => (s.setFlag (s.drawn x y n).2).v
  | .ldVxDt x => (s.setV x s.dt).v
  | .ldVxK x =>
    match chooseKey (Config.freeKeyPick s.draws) s.downKeys with
    | none => s.v
    | some k => (s.setV x (BitVec.ofNat 8 k.val)).v
  | .ldVxMem x => s.loaded x
  | _ => s.v

/-- I after FX55 and FX65: past the range under LDST_INCREMENTS_I (R145, R146). -/
def State.iPast (s : State) (x : Reg) : Nat :=
  if s.params.ldstIncrementsI then (s.i + x.val + 1) % 2 ^ 16 else s.i

/-- I (R141 to R143, R145, R146). -/
def State.iAfter (s : State) : Instr → Nat
  | .ldINnn nnn => nnnAddr nnn
  | .addIVx x => indexSum s.params.iAddWidth s.i (s.getV x)
  | .ldFVx x => (s.getV x).toNat * 5
  | .ldMemVx x | .ldVxMem x => s.iPast x
  | _ => s.i

/-- DT (R212). -/
def State.dtAfter (s : State) : Instr → Byte
  | .ldDtVx x => s.getV x
  | _ => s.dt

/-- ST (R213). -/
def State.stAfter (s : State) : Instr → Byte
  | .ldStVx x => s.getV x
  | _ => s.st

/-- SP (R162, R164). -/
def State.spAfter (s : State) : Instr → Fin 17
  | .ret => s.popped.sp
  | .call _ => ⟨min (s.sp.val + 1) 16, by omega⟩
  | _ => s.sp

/-- The call stack (R164). -/
def State.stackAfter (s : State) : Instr → Stack
  | .call _ => if h : s.sp.val < 16 then s.stack.set s.sp.val s.pc else s.stack
  | _ => s.stack

/-- Memory (R144, R145). -/
def State.memAfter (s : State) : Instr → Memory
  | .ldBVx x => s.stored (bcdDigits (s.getV x))
  | .ldMemVx x => s.stored (s.valuesUpTo x)
  | _ => s.mem

/-- The framebuffer (R191, R192). -/
def State.fbAfter (s : State) : Instr → Framebuffer
  | .cls => fbClear
  | .drw x y n => (s.drawn x y n).1
  | _ => s.fb

/-- The state an instruction leaves that completes. -/
def State.completed (s : State) (i : Instr) : State :=
  { s with v := s.vAfter i, i := s.iAfter i, pc := BitVec.ofNat 16 (specPc i s), dt := s.dtAfter i, st := s.stAfter i,
           sp := s.spAfter i, stack := s.stackAfter i, mem := s.memAfter i, fb := s.fbAfter i }

/-- The state when the failing check of an instruction is met: the effects before it are in place (R237). -/
def State.uptoError (s : State) : Instr → State
  | .ret => s.popped
  | .ldBVx x => s.setMem (s.stored (bcdDigits (s.getV x)))
  | .ldMemVx x => s.setMem (s.stored (s.valuesUpTo x))
  | .ldVxMem x => { s with v := s.loaded x }
  | _ => s

/-- The state an instruction leaves: an error of the table, a refusal, or completion. -/
def State.outcome (s : State) (i : Instr) : State :=
  match specErr i s with
  | some e => (s.uptoError i).raised e
  | none => if specRefused i s then s.refusedState else s.completed i

theorem State.outcome_raised {s : State} {i : Instr} {e : Err} (h : specErr i s = some e) :
    s.outcome i = (s.uptoError i).raised e := by
  rw [State.outcome, h]

theorem State.outcome_refused {s : State} {i : Instr} (he : specErr i s = none) (hr : specRefused i s = true) :
    s.outcome i = s.refusedState := by
  rw [State.outcome, he]
  exact if_pos hr

theorem State.outcome_completed {s : State} {i : Instr} (he : specErr i s = none) (hr : specRefused i s = false) :
    s.outcome i = s.completed i := by
  rw [State.outcome, he]
  exact if_neg (by simp [hr])

/-! ### The program counter as a word -/

theorem ofNat_toNat_add (a : Word) (n : Nat) : BitVec.ofNat 16 (a.toNat + n) = a + BitVec.ofNat 16 n := by
  rw [BitVec.ofNat_add, BitVec.ofNat_toNat, BitVec.setWidth_eq]

theorem State.advance_pc_ofNat (s : State) : s.advance.pc = BitVec.ofNat 16 (s.pc.toNat + 2) :=
  (ofNat_toNat_add s.pc 2).symm

theorem State.skipIf_pc_ofNat (s : State) {c : Bool} {p : Prop} [Decidable p] (h : c = true ↔ p) :
    (s.skipIf c).pc = BitVec.ofNat 16 (s.pc.toNat + if p then 4 else 2) := by
  rw [ofNat_toNat_add, State.skipIf_pc]
  by_cases hp : p
  · rw [if_pos hp, if_pos (h.2 hp)]; rfl
  · rw [if_neg hp, if_neg (mt h.1 hp)]; rfl

/-! ### Each instruction answers its outcome -/

/-- An instruction answers its outcome when it answers a state with the fields of `completed`. -/
theorem eq_outcome_of_completed {s t : State} {i : Instr} (he : specErr i s = none) (hr : specRefused i s = false)
    (hpc : t.pc = BitVec.ofNat 16 (specPc i s)) (ht : t = { s.completed i with pc := t.pc }) :
    (.next t : Host.Outcome State Fault Refusal) = .next (s.outcome i) := by
  rw [State.outcome_completed he hr, ht, hpc]; rfl

/-- An instruction answers its outcome when it raises the error of the table with its earlier effects in place. -/
theorem raise_eq_outcome {s : State} {i : Instr} {e : Err} (h : specErr i s = some e) :
    raise e (s.uptoError i) = .next (s.outcome i) := by
  rw [State.outcome_raised h]; rfl

theorem exec_sys_outcome (nnn : Addr12) (s : State) : exec (.sys nnn) s = .next (s.outcome (.sys nnn)) := by
  cases hmode : s.params.sysMode with
  | refuse =>
    rw [exec_sys_refuse hmode, State.outcome_refused rfl (by rw [specRefused, hmode]; rfl)]
  | nop =>
    rw [exec_sys_nop hmode]
    exact eq_outcome_of_completed rfl (by rw [specRefused, hmode]; rfl) s.advance_pc_ofNat rfl

/-- At SP = 0 there is nothing to lower. -/
theorem State.popped_of_empty {s : State} (h : s.sp.val = 0) : s.popped = s := by
  have hsp : s.popped.sp = s.sp := Fin.ext (show s.sp.val - 1 = s.sp.val by omega)
  exact State.ext rfl rfl rfl rfl rfl hsp rfl rfl rfl rfl rfl rfl rfl rfl

theorem pop_outside {s : State} (h : s.sp.val ≠ 0) (ha : 4096 ≤ s.topSlot.toNat) :
    pop s = (s.popped, .error (.outOfRange s.topSlot.toNat)) := by
  rw [State.topSlot] at ha ⊢
  rw [pop, if_neg h, memSize_eq, if_neg (Nat.not_lt.2 ha)]

theorem returnTarget_ofNat (r : RetAdvance) (a : Word) :
    returnTarget r a = BitVec.ofNat 16 (a.toNat + if r = .plus2 then 2 else 0) := by
  rw [returnTarget_eq, ofNat_toNat_add]
  split_ifs <;> rfl

theorem exec_ret_outcome (s : State) : exec .ret s = .next (s.outcome .ret) := by
  by_cases hsp : s.sp.val = 0
  · rw [exec_ret_empty hsp, State.outcome_raised (i := .ret) (if_pos hsp), State.uptoError, State.popped_of_empty hsp]
  · by_cases ha : s.topSlot.toNat < 4096
    · rw [exec_ret_inside hsp ha]
      have he : specErr .ret s = none := by rw [specErr, if_neg hsp, if_neg (by omega)]
      exact eq_outcome_of_completed he rfl (returnTarget_ofNat _ _) rfl
    · have he : specErr .ret s = some (.outOfRange s.topSlot.toNat) := by rw [specErr, if_neg hsp, if_pos (by omega)]
      rw [← raise_eq_outcome he, exec, execRet, State.uptoError, pop_outside hsp (by omega)]

theorem exec_call_outcome (nnn : Addr12) (s : State) : exec (.call nnn) s = .next (s.outcome (.call nnn)) := by
  by_cases hsp : s.sp.val = 16
  · rw [exec_call_full hsp, State.outcome_raised (i := .call nnn) (if_pos hsp)]; rfl
  · have hroom : s.sp.val < 16 := by omega
    by_cases hpc : s.pc.toNat < 4096
    · have he : specErr (.call nnn) s = none := by rw [specErr, if_neg hsp, if_neg (by omega)]
      have hmin : min (s.sp.val + 1) 16 = s.sp.val + 1 := by omega
      rw [exec_call_room hroom hpc]
      refine eq_outcome_of_completed he rfl rfl ?_
      simp only [State.completed, State.stackAfter, State.spAfter, hroom, hmin]
      rfl
    · have he : specErr (.call nnn) s = some (.outOfRange s.pc.toNat) := by
        rw [specErr, if_neg hsp, if_pos (by omega)]
      rw [← raise_eq_outcome he, exec, execCall, push, dif_pos hroom, memSize_eq, if_neg hpc]; rfl

theorem exec_drw_outcome (x y : Reg) (n : Nibble) (s : State) :
    exec (.drw x y n) s = .next (s.outcome (.drw x y n)) := by
  by_cases hn : n = 0
  · subst hn
    rw [exec_drw_zero, State.outcome_raised (i := .drw x y 0) rfl]; rfl
  · have hn' : n.toNat ≠ 0 := BitVec.toNat_ne_iff_ne.2 hn
    by_cases hout : 4096 < s.i + n.toNat
    · have he : specErr (.drw x y n) s = some (.outOfRange (max s.i 4096)) := by
        rw [specErr, if_neg hn', if_pos hout]
      rw [exec_drw_outside hn hout, State.outcome_raised he]; rfl
    · have he : specErr (.drw x y n) s = none := by rw [specErr, if_neg hn', if_neg hout]
      obtain ⟨g, hit, hdraw, -, -⟩ := drawBits_spritePixels s x y n
      have hdrawn : s.drawn x y n = (g, hit) := by rw [State.drawn, hdraw]
      rw [exec_drw_inside hn (by omega) hdraw]
      refine eq_outcome_of_completed he rfl (State.advance_pc_ofNat _) ?_
      simp only [State.completed, State.vAfter, State.fbAfter, hdrawn]
      rfl

/-- The key a register value names, where it names one (R214, R215). -/
theorem keyDown_iff_of_nibble {s : State} {v : Byte} (h : v.toNat < 16) (b : Bool) :
    s.keyDown ⟨v.toNat, h⟩ = b ↔ ∃ k : Fin 16, v.toNat = k.val ∧ s.keyDown k = b :=
  ⟨fun hb => ⟨⟨v.toNat, h⟩, rfl, hb⟩, fun ⟨k, hk, hb⟩ => by rwa [show (⟨v.toNat, h⟩ : Fin 16) = k from Fin.ext hk]⟩

theorem exec_skp_above {x : Reg} {s : State} (h : 15 < (s.getV x).toNat) :
    exec (.skp x) s = .next (s.raised (.valueExceedsNibble (s.getV x).toNat)) := by
  rw [exec, execSkp, nibbleArg_error h]; rfl

theorem exec_sknp_above {x : Reg} {s : State} (h : 15 < (s.getV x).toNat) :
    exec (.sknp x) s = .next (s.raised (.valueExceedsNibble (s.getV x).toNat)) := by
  rw [exec, execSknp, nibbleArg_error h]; rfl

theorem exec_skp_outcome (x : Reg) (s : State) : exec (.skp x) s = .next (s.outcome (.skp x)) := by
  by_cases hv : 15 < (s.getV x).toNat
  · have he : specErr (.skp x) s = some (.valueExceedsNibble (s.getV x).toNat) := if_pos hv
    rw [exec_skp_above hv, State.outcome_raised he]; rfl
  · rw [exec, execSkp, nibbleArg_ok (Nat.not_lt.1 hv)]
    exact eq_outcome_of_completed (if_neg hv) rfl (s.skipIf_pc_ofNat (keyDown_iff_of_nibble _ true)) rfl

theorem exec_sknp_outcome (x : Reg) (s : State) : exec (.sknp x) s = .next (s.outcome (.sknp x)) := by
  by_cases hv : 15 < (s.getV x).toNat
  · have he : specErr (.sknp x) s = some (.valueExceedsNibble (s.getV x).toNat) := if_pos hv
    rw [exec_sknp_above hv, State.outcome_raised he]; rfl
  · rw [exec, execSknp, nibbleArg_ok (Nat.not_lt.1 hv)]
    exact eq_outcome_of_completed (if_neg hv) rfl
      (s.skipIf_pc_ofNat ((Bool.not_eq_true' _).to_iff.trans (keyDown_iff_of_nibble _ false))) rfl

theorem exec_ldFVx_outcome (x : Reg) (s : State) : exec (.ldFVx x) s = .next (s.outcome (.ldFVx x)) := by
  by_cases hv : 15 < (s.getV x).toNat
  · rw [exec_ldFVx_above hv, State.outcome_raised (i := .ldFVx x) (if_pos hv)]; rfl
  · rw [exec_ldFVx_digit (Nat.not_lt.1 hv)]
    exact eq_outcome_of_completed (if_neg hv) rfl (State.advance_pc_ofNat _) rfl

theorem exec_ldVxK (x : Reg) (s : State) :
    exec (.ldVxK x) s = .next (s.takeKey x (chooseKey (Config.freeKeyPick s.draws) s.downKeys)) := rfl

theorem exec_ldVxK_outcome (x : Reg) (s : State) : exec (.ldVxK x) s = .next (s.outcome (.ldVxK x)) := by
  rw [exec_ldVxK]
  cases hkey : chooseKey (Config.freeKeyPick s.draws) s.downKeys with
  | none =>
    have hup : ¬ ∃ k : Fin 16, s.keyDown k = true := by
      rintro ⟨k, hk⟩
      rw [chooseKey_eq_none] at hkey
      rw [← mem_downKeys, hkey] at hk
      cases hk
    refine eq_outcome_of_completed (i := .ldVxK x) rfl rfl ?_ ?_
    · rw [specPc, if_neg hup, ofNat_toNat_add]
      exact (BitVec.add_zero _).symm
    · simp only [State.completed, State.vAfter, hkey]; rfl
  | some k =>
    have hdown : ∃ k : Fin 16, s.keyDown k = true := ⟨k, (mem_downKeys s k).1 (chooseKey_mem hkey)⟩
    refine eq_outcome_of_completed (i := .ldVxK x) rfl rfl ?_ ?_
    · rw [specPc, if_pos hdown]
      exact State.advance_pc_ofNat _
    · simp only [State.completed, State.vAfter, hkey]; rfl

/-! ### The loads and stores -/

theorem bcdDigits_le (v : Byte) : ∀ d ∈ bcdDigits v, d ≤ 255 := by
  have hv : v.toNat < 256 := v.isLt
  simp only [bcdDigits, List.mem_cons, List.not_mem_nil, or_false]
  rintro d (rfl | rfl | rfl) <;> omega

theorem State.valuesUpTo_le (s : State) (x : Reg) : ∀ d ∈ s.valuesUpTo x, d ≤ 255 := by
  intro d hd
  obtain ⟨r, -, rfl⟩ := List.mem_map.1 hd
  exact Nat.le_of_lt_succ (s.getV r).isLt

theorem State.length_valuesUpTo (s : State) (x : Reg) : (s.valuesUpTo x).length = x.val + 1 := by
  rw [State.valuesUpTo, List.length_map, length_regsUpTo]

/-- A store from I on leaves the memory `stored`, and nothing else changes. -/
theorem storeBytes_stored {s : State} {vs : List Nat} (hv : ∀ v ∈ vs, v ≤ 255) :
    (storeBytes s s.i vs).1 = s.setMem (s.stored vs) := by
  rw [storeBytes_eq s s.i vs hv]; rfl

theorem State.loaded_getElem (s : State) (x q : Reg) : (s.loaded x)[q.val] =
    if q ≤ x ∧ s.i + q.val < 4096 then s.mem.read (s.i + q.val) else s.getV q := by
  rw [State.loaded, Vector.getElem_ofFn]

/-- A load from I on leaves the registers `loaded`, and nothing else changes. -/
theorem loadRegs_loaded (s : State) (x : Reg) : (loadRegs s s.i (regsUpTo x)).1 = { s with v := s.loaded x } := by
  have hv : (loadRegs s s.i (regsUpTo x)).1.v = s.loaded x := State.ext_v fun q => by
    rw [← State.getV_eq, loadUpTo_getV, State.loaded_getElem, memSize_eq]
  rw [loadRegs_frame, hv]

/-- The error of a store is that of the first address outside memory. -/
theorem storeBytes_err {s : State} {a : Nat} {vs : List Nat} (hv : ∀ v ∈ vs, v ≤ 255) (hne : vs ≠ []) :
    (storeBytes s a vs).2 = if 4096 ≤ a + (vs.length - 1) then some (.outOfRange (max a 4096)) else none := by
  have hpos : 0 < vs.length := List.length_pos_of_ne_nil hne
  rw [storeBytes_eq s a vs hv, memSize_eq]
  by_cases hout : 4096 ≤ a + (vs.length - 1)
  · rw [if_pos hout, if_neg (by omega)]
  · rw [if_neg hout, if_pos (by omega)]

theorem State.postIncrement_eq (s : State) (x : Reg) : s.postIncrement x = s.setI (s.iPast x) := by
  unfold State.postIncrement State.iPast
  split_ifs <;> rfl

/-- An instruction of several accesses answers its outcome. -/
theorem complete_eq_outcome {s : State} {i : Instr} {r : State × Option Err} {k : State → State}
    (hr : specRefused i s = false) (he : r.2 = specErr i s) (hupto : r.1 = s.uptoError i)
    (hpc : (k r.1).pc = BitVec.ofNat 16 (specPc i s)) (hk : k r.1 = { s.completed i with pc := (k r.1).pc }) :
    complete r k = .next (s.outcome i) := by
  cases h : specErr i s with
  | none => rw [complete_none (he.trans h)]; exact eq_outcome_of_completed h hr hpc hk
  | some e => rw [complete_some (he.trans h), State.outcome_raised h, hupto]

theorem exec_ldBVx_outcome (x : Reg) (s : State) : exec (.ldBVx x) s = .next (s.outcome (.ldBVx x)) := by
  have hstored := storeBytes_stored (s := s) (bcdDigits_le (s.getV x))
  rw [exec, execLdBVx]
  refine complete_eq_outcome (i := .ldBVx x) rfl (storeBytes_err (bcdDigits_le _) (List.cons_ne_nil _ _)) hstored ?_ ?_
  · rw [hstored]; exact State.advance_pc_ofNat _
  · rw [hstored]; rfl

theorem exec_ldMemVx_outcome (x : Reg) (s : State) : exec (.ldMemVx x) s = .next (s.outcome (.ldMemVx x)) := by
  have hstored := storeBytes_stored (s := s) (s.valuesUpTo_le x)
  rw [exec, execLdMemVx]
  refine complete_eq_outcome (i := .ldMemVx x) rfl ?_ hstored ?_ ?_
  · have hne : s.valuesUpTo x ≠ [] := List.ne_nil_of_length_pos (by rw [State.length_valuesUpTo]; omega)
    rw [storeBytes_err (s.valuesUpTo_le x) hne, State.length_valuesUpTo]; rfl
  · rw [hstored, State.postIncrement_eq]; exact State.advance_pc_ofNat _
  · rw [hstored, State.postIncrement_eq]; rfl

theorem exec_ldVxMem_outcome (x : Reg) (s : State) : exec (.ldVxMem x) s = .next (s.outcome (.ldVxMem x)) := by
  have hloaded := loadRegs_loaded s x
  rw [exec, execLdVxMem]
  refine complete_eq_outcome (i := .ldVxMem x) rfl ?_ hloaded ?_ ?_
  · rw [loadUpTo_err, memSize_eq, specErr]
    by_cases hout : 4096 ≤ s.i + x.val
    · rw [if_pos hout, if_neg (by omega)]
    · rw [if_neg hout, if_pos (by omega)]
  · rw [hloaded, State.postIncrement_eq]; exact State.advance_pc_ofNat _
  · rw [hloaded, State.postIncrement_eq]; rfl

/-- Every instruction answers its outcome, in every state. -/
theorem exec_eq (i : Instr) (s : State) : exec i s = .next (s.outcome i) := by
  cases i with
  | ret => exact exec_ret_outcome s
  | sys nnn => exact exec_sys_outcome nnn s
  | call nnn => exact exec_call_outcome nnn s
  | drw x y n => exact exec_drw_outcome x y n s
  | skp x => exact exec_skp_outcome x s
  | sknp x => exact exec_sknp_outcome x s
  | ldFVx x => exact exec_ldFVx_outcome x s
  | ldVxK x => exact exec_ldVxK_outcome x s
  | ldBVx x => exact exec_ldBVx_outcome x s
  | ldMemVx x => exact exec_ldMemVx_outcome x s
  | ldVxMem x => exact exec_ldVxMem_outcome x s
  | jp nnn => exact eq_outcome_of_completed rfl rfl rfl rfl
  | jpV0Nnn nnn =>
    refine eq_outcome_of_completed (i := .jpV0Nnn nnn) rfl rfl ?_ rfl
    show offsetTarget s.params.bnnnMask nnn (s.getV 0) = _
    rw [specPc]
    cases s.params.bnnnMask <;> rfl
  | seVxNn x nn => exact eq_outcome_of_completed rfl rfl (s.skipIf_pc_ofNat beq_iff_eq) rfl
  | sneVxNn x nn => exact eq_outcome_of_completed rfl rfl (s.skipIf_pc_ofNat bne_iff_ne) rfl
  | seVxVy x y n => exact eq_outcome_of_completed rfl rfl (s.skipIf_pc_ofNat beq_iff_eq) rfl
  | sneVxVy x y n => exact eq_outcome_of_completed rfl rfl (s.skipIf_pc_ofNat bne_iff_ne) rfl
  | cls | ldVxNn | addVxNn | ldVxVy | orVxVy | andVxVy | xorVxVy | addVxVy | subVxVy | shr | subn | shl | ldINnn
  | rnd | ldVxDt | ldDtVx | ldStVx | addIVx =>
    exact eq_outcome_of_completed rfl rfl (State.advance_pc_ofNat _) rfl

end Sys2Proof.Machine
end

section
/-! Which fields an instruction changes, and the errors of the table (60_exceptions.md sections 1 and 3). -/

open Sys2Proof Sys2Proof.Machine

namespace Sys2Proof.Machine

/-! ### The three ways an instruction ends -/

theorem State.outcome_cases (s : State) (i : Instr) :
    (∃ e, specErr i s = some e ∧ s.outcome i = (s.uptoError i).raised e) ∨
    (specErr i s = none ∧ specRefused i s = true ∧ s.outcome i = s.refusedState) ∨
    (specErr i s = none ∧ specRefused i s = false ∧ s.outcome i = s.completed i) := by
  cases he : specErr i s with
  | some e => exact .inl ⟨e, rfl, State.outcome_raised he⟩
  | none =>
    cases hr : specRefused i s with
    | true => exact .inr (.inl ⟨rfl, rfl, State.outcome_refused he hr⟩)
    | false => exact .inr (.inr ⟨rfl, rfl, State.outcome_completed he hr⟩)

theorem eq_outcome_of_exec {i : Instr} {s t : State} (h : exec i s = .next t) : t = s.outcome i := by
  rw [exec_eq] at h
  cases h; rfl

/-- The effects before an error touch only the registers, SP and memory. -/
theorem State.uptoError_eq (s : State) (i : Instr) :
    s.uptoError i = { s with v := (s.uptoError i).v, sp := (s.uptoError i).sp, mem := (s.uptoError i).mem } := by
  cases i <;> rfl

@[simp] theorem State.uptoError_i (s : State) (i : Instr) : (s.uptoError i).i = s.i := by
  rw [State.uptoError_eq]
@[simp] theorem State.uptoError_pc (s : State) (i : Instr) : (s.uptoError i).pc = s.pc := by
  rw [State.uptoError_eq]
@[simp] theorem State.uptoError_dt (s : State) (i : Instr) : (s.uptoError i).dt = s.dt := by
  rw [State.uptoError_eq]
@[simp] theorem State.uptoError_st (s : State) (i : Instr) : (s.uptoError i).st = s.st := by
  rw [State.uptoError_eq]
@[simp] theorem State.uptoError_stack (s : State) (i : Instr) : (s.uptoError i).stack = s.stack := by
  rw [State.uptoError_eq]
@[simp] theorem State.uptoError_fb (s : State) (i : Instr) : (s.uptoError i).fb = s.fb := by
  rw [State.uptoError_eq]
@[simp] theorem State.uptoError_params (s : State) (i : Instr) : (s.uptoError i).params = s.params := by
  rw [State.uptoError_eq]
@[simp] theorem State.uptoError_inputs (s : State) (i : Instr) : (s.uptoError i).inputs = s.inputs := by
  rw [State.uptoError_eq]
@[simp] theorem State.uptoError_draws (s : State) (i : Instr) : (s.uptoError i).draws = s.draws := by
  rw [State.uptoError_eq]

/-- What an error, a refusal and completion all keep, the instruction keeps. -/
theorem State.outcome_keeps {α : Type} {s : State} {i : Instr} (f : State → α)
    (hraised : ∀ e, f ((s.uptoError i).raised e) = f s) (hrefused : f s.refusedState = f s)
    (hcompleted : f (s.completed i) = f s) : f (s.outcome i) = f s := by
  obtain ⟨e, -, h⟩ | ⟨-, -, h⟩ | ⟨-, -, h⟩ := s.outcome_cases i
  · rw [h, hraised]
  · rw [h, hrefused]
  · rw [h, hcompleted]

@[simp] theorem State.outcome_params (s : State) (i : Instr) : (s.outcome i).params = s.params :=
  State.outcome_keeps State.params (fun _ => by simp) rfl rfl
@[simp] theorem State.outcome_inputs (s : State) (i : Instr) : (s.outcome i).inputs = s.inputs :=
  State.outcome_keeps State.inputs (fun _ => by simp) rfl rfl
@[simp] theorem State.outcome_draws (s : State) (i : Instr) : (s.outcome i).draws = s.draws :=
  State.outcome_keeps State.draws (fun _ => by simp) rfl rfl

theorem State.outcome_sameHost (s : State) (i : Instr) : SameHost s (s.outcome i) :=
  ⟨s.outcome_params i, s.outcome_inputs i, s.outcome_draws i⟩

theorem State.outcome_i {s : State} {i : Instr} (h : s.iAfter i = s.i) : (s.outcome i).i = s.i :=
  State.outcome_keeps State.i (fun _ => by simp) rfl h
theorem State.outcome_dt {s : State} {i : Instr} (h : s.dtAfter i = s.dt) : (s.outcome i).dt = s.dt :=
  State.outcome_keeps State.dt (fun _ => by simp) rfl h
theorem State.outcome_st {s : State} {i : Instr} (h : s.stAfter i = s.st) : (s.outcome i).st = s.st :=
  State.outcome_keeps State.st (fun _ => by simp) rfl h
theorem State.outcome_fb {s : State} {i : Instr} (h : s.fbAfter i = s.fb) : (s.outcome i).fb = s.fb :=
  State.outcome_keeps State.fb (fun _ => by simp) rfl h
theorem State.outcome_stack {s : State} {i : Instr} (h : s.stackAfter i = s.stack) :
    (s.outcome i).stack = s.stack :=
  State.outcome_keeps State.stack (fun _ => by simp) rfl h

/-! ### The result and `fault` -/

theorem State.outcome_result (s : State) (i : Instr) : (s.outcome i).result =
    match specErr i s with
    | some e => .err e
    | none => if specRefused i s then .refused else s.result := by
  obtain ⟨e, he, h⟩ | ⟨he, hr, h⟩ | ⟨he, hr, h⟩ := s.outcome_cases i
  · rw [h, he]; rfl
  · rw [h, he, hr]; rfl
  · rw [h, he, hr]; rfl

theorem State.outcome_fault (s : State) (i : Instr) : (s.outcome i).fault =
    match specErr i s with
    | some e => some e.code
    | none => if specRefused i s then some .refused else s.fault := by
  obtain ⟨e, he, h⟩ | ⟨he, hr, h⟩ | ⟨he, hr, h⟩ := s.outcome_cases i
  · rw [h, he]; rfl
  · rw [h, he, hr]; rfl
  · rw [h, he, hr]; rfl

/-- `fault` holds the code of the result, which is never Stopped (R38, R236, R241). -/
def State.Coherent (s : State) : Prop := s.fault = s.result.faultCode ∧ s.result ≠ .stopped

theorem State.raised_coherent (s : State) (e : Err) : (s.raised e).Coherent := ⟨rfl, nofun⟩

theorem State.outcome_coherent {s : State} (hs : s.Coherent) (i : Instr) : (s.outcome i).Coherent := by
  obtain ⟨e, -, h⟩ | ⟨-, -, h⟩ | ⟨-, -, h⟩ := s.outcome_cases i
  · rw [h]; exact State.raised_coherent _ e
  · rw [h]; exact ⟨rfl, nofun⟩
  · rw [h]; exact hs

theorem State.beginStep_coherent {s : State} (h : s.fault = none) : s.beginStep.Coherent := ⟨h, nofun⟩

/-! ### The program counter -/

/-- A PC that fetches leads to at most 0x10FE (R27). -/
theorem specPc_le {i : Instr} {s : State} (hpc : s.pc.toNat ≤ 4094) (he : specErr i s = none) :
    specPc i s ≤ 0x10FE := by
  cases i with
  | ret =>
    rw [specErr] at he
    split_ifs at he with hsp hslot
    rw [specPc]
    split_ifs <;> omega
  | jp nnn | call nnn => rw [specPc]; omega
  | jpV0Nnn nnn => rw [specPc]; split_ifs <;> omega
  | seVxNn | sneVxNn | seVxVy | sneVxVy | skp | sknp | ldVxK => rw [specPc]; split_ifs <;> omega
  | _ => rw [specPc]; omega

theorem State.completed_pc_toNat {i : Instr} {s : State} (hpc : s.pc.toNat ≤ 4094) (he : specErr i s = none) :
    (s.completed i).pc.toNat = specPc i s := by
  have hle := specPc_le hpc he
  rw [State.completed, BitVec.toNat_ofNat, Nat.mod_eq_of_lt (by omega)]

/-! ### The step of a running core -/

/-- Every way a step can end, with the instruction's outcome written out. -/
theorem step_next_outcome {s t : State} (h : step s = .next t) :
    s.fault = none ∧
      ((∃ e, fetch s = .error e ∧ t = (s.beginStep.raised e).endStep) ∨
       (∃ w, fetch s = .ok w ∧ decodeWord s.params.strict59 w = .error (.unknownOpcode w) ∧
          t = (s.beginStep.raised (.unknownOpcode w)).endStep) ∨
       (∃ w i, fetch s = .ok w ∧ decodeWord s.params.strict59 w = .ok i ∧ t = (s.beginStep.outcome i).endStep)) := by
  obtain ⟨hf, he | ⟨w, e, hw, hd, ht⟩ | ⟨w, i, u, hw, hd, hu, ht⟩⟩ := step_next_cases h
  · exact ⟨hf, .inl he⟩
  · have hill : IllegalWord s.params.strict59 w := by
      by_contra hlegal
      obtain ⟨i, hi⟩ := (decodeWord_rejects s.params.strict59 w).2 hlegal
      rw [hi] at hd
      cases hd
    exact ⟨hf, .inr (.inl ⟨w, hw, (decodeWord_rejects _ w).1 hill, ht⟩)⟩
  · exact ⟨hf, .inr (.inr ⟨w, i, hw, hd, by rw [ht, eq_outcome_of_exec hu]⟩)⟩

theorem step_outcome {s : State} (h : s.fault = none) {w : Word} (hf : fetch s = .ok w) {i : Instr}
    (hd : decodeWord s.params.strict59 w = .ok i) : step s = .next (s.beginStep.outcome i).endStep := by
  rw [step_exec h hf hd, exec_eq, withInputsUsed_next]

/-- A running core takes its step. -/
theorem step_total {s : State} (h : s.fault = none) : ∃ t, step s = .next t := by
  cases hf : fetch s with
  | error e => exact ⟨_, step_fetch_error h hf⟩
  | ok w =>
    cases hd : decodeWord s.params.strict59 w with
    | error e => exact ⟨_, step_unknown h hf hd⟩
    | ok i => exact ⟨_, step_outcome h hf hd⟩

theorem step_coherent {s t : State} (h : step s = .next t) : t.Coherent := by
  obtain ⟨hf, ⟨e, -, rfl⟩ | ⟨w, -, -, rfl⟩ | ⟨w, i, -, -, rfl⟩⟩ := step_next_outcome h
  · exact State.raised_coherent s e
  · exact State.raised_coherent s _
  · exact State.outcome_coherent (State.beginStep_coherent hf) i

end Sys2Proof.Machine

/-- Settles O4: a stopped core takes no step, and a running one always does, with a coherent result. -/
theorem onlyStoppedCoreTakesNoStep : Obligations.OnlyStoppedCoreTakesNoStep := by
  refine fun s keys rnd => ⟨fun c hc => ⟨step_stopped hc, ?_⟩, fun hf => ?_⟩
  · have hstop : step (s.present keys rnd) = .fault (.stopped c) := step_stopped hc
    rw [portStep, hstop]
  · obtain ⟨t, ht⟩ := step_total hf
    exact ⟨t, ht, step_coherent ht⟩

/-- Settles O39: `exec_eq` with the result and `fault` of an outcome. -/
theorem everyErrorIsInTheTable : Obligations.EveryErrorIsInTheTable :=
  fun i s => ⟨_, exec_eq i s, s.outcome_result i, s.outcome_fault i⟩

/-- Settles O40: an outcome that completes has the PC of the policy, and the other two keep PC. -/
theorem pcFollowsAdvancePolicy : Obligations.PcFollowsAdvancePolicy := by
  intro i s t hpc hexec
  rw [eq_outcome_of_exec hexec]
  obtain ⟨e, he, h⟩ | ⟨he, hr, h⟩ | ⟨he, hr, h⟩ := s.outcome_cases i
  · rw [h, if_neg (by simp [he]), State.raised_pc, State.uptoError_pc]
  · rw [h, if_neg (by simp [hr]), State.refusedState_pc]
  · rw [h, if_pos ⟨he, hr⟩, State.completed_pc_toNat hpc he]

/-- Settles O41: only completion moves PC, and completion leaves `fault` as it was. -/
theorem errorsArePreciseAndSticky : Obligations.ErrorsArePreciseAndSticky := by
  intro s t hstep hfault
  obtain ⟨c, hc⟩ := Option.ne_none_iff_exists'.1 hfault
  refine ⟨?_, (step_coherent hstep).1, c, step_stopped hc, hc⟩
  obtain ⟨hf, ⟨e, -, rfl⟩ | ⟨w, -, -, rfl⟩ | ⟨w, i, -, -, rfl⟩⟩ := step_next_outcome hstep
  · rfl
  · rfl
  · obtain ⟨e, -, h⟩ | ⟨-, -, h⟩ | ⟨-, -, h⟩ := s.beginStep.outcome_cases i
    · rw [h]; exact State.uptoError_pc _ i
    · rw [h]; rfl
    · rw [h] at hfault; exact absurd hf hfault

/-- Settles O3: the word fetched is the one of the two bytes at PC. -/
theorem stepRunsDecodedInstruction : Obligations.StepRunsDecodedInstruction := by
  intro s i hf hpc hd t ht
  rw [step_exec hf (fetch_inside hpc) hd]
  exact congrArg withInputsUsed ht

end

section
/-! The invariant of the core: reset meets it, every step and every use of a port keeps it (60_exceptions.md R252). -/

open Sys2Proof Sys2Proof.Machine

namespace Sys2Proof.Machine

/-! ### Reset (70_reset_and_hazards.md R260) -/

/-- Bytes equal to what an unlisted address reads as leave the empty memory empty. -/
theorem Memory.writeList_resetBytes (a : Nat) (bs : List Byte)
    (h : ∀ (k : Nat) (hk : k < bs.length), bs[k] = resetByte (a + k)) : Memory.writeList [] a bs = [] := by
  induction bs generalizing a with
  | nil => rfl
  | cons b bs ih =>
    have hb : b = resetByte a := h 0 (Nat.zero_lt_succ _)
    rw [Memory.writeList, Memory.write, if_pos hb]
    refine ih (a + 1) fun k hk => ?_
    rw [add_assoc, add_comm 1 k]
    exact h (k + 1) (Nat.succ_lt_succ hk)

theorem loadFontSet_standardFont : loadFontSet standardFont [] = [] := by
  refine Memory.writeList_resetBytes 0 _ fun k hk => ?_
  have hk80 : k < 80 := by simpa using hk
  rw [Nat.zero_add, resetByte, dif_pos hk80, Vector.getElem_toList]

theorem State.resetWith_defaultParams : State.resetWith defaultParams = State.reset := by
  have hmem : loadFontSet defaultParams.font [] = [] := loadFontSet_standardFont
  rw [State.resetWith, hmem]; rfl

theorem State.resetWith_mem_read (p : Params) (a : Nat) :
    (State.resetWith p).mem.read a = if h : a < 80 then p.font[a] else resetByte a := by
  have hread := Memory.read_writeList [] 0 a p.font.toList
  simp only [Nat.zero_le, true_and, Nat.sub_zero, Vector.length_toList, Vector.getElem_toList] at hread
  exact hread

theorem resetWith_inv (p : Params) : Inv (State.resetWith p) where
  mem_wf := Memory.wf_writeList Memory.wf_nil _ (by rw [Vector.length_toList, memSize_eq]; decide)
  pc_le := by show (0x200 : Nat) ≤ 0x10FE; decide
  i_lt _ := by show (0 : Nat) < 2 ^ 16; decide
  slot_le k hk := by
    show (Vector.replicate 16 (0 : Word))[k].toNat ≤ 0xFFE
    rw [Vector.getElem_replicate]; decide
  fault_eq := rfl
  not_stopped := nofun

/-! ### What the invariant says of an instruction's outcome -/

theorem State.stored_wf {s : State} (h : s.mem.wf) (vs : List Nat) : (s.stored vs).wf :=
  Memory.wf_writeList_take h s.i vs (BitVec.ofNat 8)

theorem State.memAfter_wf {s : State} (h : s.mem.wf) (i : Instr) : (s.memAfter i).wf := by
  cases i with
  | ldBVx x => exact State.stored_wf h _
  | ldMemVx x => exact State.stored_wf h _
  | _ => exact h

theorem State.uptoError_mem_wf {s : State} (h : s.mem.wf) (i : Instr) : (s.uptoError i).mem.wf := by
  cases i with
  | ldBVx x => exact State.stored_wf h _
  | ldMemVx x => exact State.stored_wf h _
  | _ => exact h

theorem State.iPast_lt {s : State} (h : s.i < 2 ^ 16) (x : Reg) : s.iPast x < 2 ^ 16 := by
  unfold State.iPast
  split_ifs
  · exact Nat.mod_lt _ (by decide)
  · exact h

/-- I stays inside its width (R25, R142). -/
theorem State.iAfter_lt {s : State} (hw : s.params.iAddWidth ≠ .unbounded) (h : s.i < 2 ^ 16) (i : Instr) :
    s.iAfter i < 2 ^ 16 := by
  cases i with
  | ldINnn nnn => exact lt_trans nnn.isLt (by decide)
  | addIVx x =>
    show indexSum s.params.iAddWidth s.i (s.getV x) < 2 ^ 16
    cases hwidth : s.params.iAddWidth with
    | w12 => exact lt_trans (Nat.mod_lt _ (by decide)) (by decide : 2 ^ 12 < 2 ^ 16)
    | w16 => exact Nat.mod_lt _ (by decide)
    | unbounded => exact absurd hwidth hw
  | ldFVx x =>
    show (s.getV x).toNat * 5 < 2 ^ 16
    omega
  | ldMemVx x => exact State.iPast_lt h x
  | ldVxMem x => exact State.iPast_lt h x
  | _ => exact h

/-- Every slot stays the address of a fetched CALL or 0 (R27, R33). -/
theorem State.stackAfter_le {s : State} (hpc : s.pc.toNat ≤ 4094)
    (h : ∀ (k : Nat) (hk : k < 16), s.stack[k].toNat ≤ 0xFFE) (i : Instr) (k : Nat) (hk : k < 16) :
    (s.stackAfter i)[k].toNat ≤ 0xFFE := by
  cases i with
  | call nnn =>
    rw [State.stackAfter]
    split_ifs with hroom
    · rw [Vector.getElem_set]
      split_ifs
      · exact hpc
      · exact h k hk
    · exact h k hk
  | _ => exact h k hk

theorem Inv.uptoError {s : State} (h : Inv s) (i : Instr) : Inv (s.uptoError i) := by
  have hmem := State.uptoError_mem_wf h.mem_wf i
  rw [State.uptoError_eq]
  exact ⟨hmem, h.pc_le, h.i_lt, h.slot_le, h.fault_eq, h.not_stopped⟩

theorem Inv.raised {s : State} (h : Inv s) (e : Err) : Inv (s.raised e) :=
  ⟨h.mem_wf, h.pc_le, h.i_lt, h.slot_le, rfl, nofun⟩

theorem Inv.refusedState {s : State} (h : Inv s) : Inv s.refusedState :=
  ⟨h.mem_wf, h.pc_le, h.i_lt, h.slot_le, rfl, nofun⟩

theorem Inv.completed {s : State} (h : Inv s) {i : Instr} (hpc : s.pc.toNat ≤ 4094) (he : specErr i s = none) :
    Inv (s.completed i) where
  mem_wf := State.memAfter_wf h.mem_wf i
  pc_le := by rw [State.completed_pc_toNat hpc he]; exact specPc_le hpc he
  i_lt hw := State.iAfter_lt (s := s) hw (h.i_lt hw) i
  slot_le := State.stackAfter_le hpc h.slot_le i
  fault_eq := h.fault_eq
  not_stopped := h.not_stopped

theorem Inv.outcome {s : State} (h : Inv s) {i : Instr} (hpc : s.pc.toNat ≤ 4094) : Inv (s.outcome i) := by
  obtain ⟨e, -, ho⟩ | ⟨-, -, ho⟩ | ⟨he, -, ho⟩ := s.outcome_cases i
  · rw [ho]; exact (h.uptoError i).raised e
  · rw [ho]; exact h.refusedState
  · rw [ho]; exact h.completed hpc he

theorem Inv.beginStep {s : State} (h : Inv s) (hf : s.fault = none) : Inv s.beginStep :=
  ⟨h.mem_wf, h.pc_le, h.i_lt, h.slot_le, hf, nofun⟩

theorem Inv.endStep {s : State} (h : Inv s) : Inv s.endStep :=
  ⟨h.mem_wf, h.pc_le, h.i_lt, h.slot_le, h.fault_eq, h.not_stopped⟩

theorem Inv.step {s t : State} (h : Inv s) (hstep : step s = .next t) : Inv t := by
  obtain ⟨hf, ⟨e, -, rfl⟩ | ⟨w, -, -, rfl⟩ | ⟨w, i, hw, -, rfl⟩⟩ := step_next_outcome hstep
  · exact ((h.beginStep hf).raised e).endStep
  · exact ((h.beginStep hf).raised _).endStep
  · have hpc := pc_of_fetch hw
    exact ((h.beginStep hf).outcome (show s.pc.toNat ≤ 4094 by omega)).endStep

/-! ### The ports (60_exceptions.md R250) -/

theorem step_params {s t : State} (h : step s = .next t) : t.params = s.params := by
  obtain ⟨-, ⟨e, -, rfl⟩ | ⟨w, -, -, rfl⟩ | ⟨w, i, -, -, rfl⟩⟩ := step_next_outcome h
  · rfl
  · rfl
  · exact State.outcome_params _ i

theorem Inv.present {s : State} (h : Inv s) (keys : Keys) (rnd : Byte) : Inv (s.present keys rnd) :=
  ⟨h.mem_wf, h.pc_le, h.i_lt, h.slot_le, h.fault_eq, h.not_stopped⟩

theorem Inv.portStep {s : State} (h : Inv s) (keys : Keys) (rnd : Byte) :
    Inv (portStep keys rnd s).1 ∧ (portStep keys rnd s).1.params = s.params := by
  unfold Sys2Proof.Machine.portStep
  split
  next t ht => exact ⟨(h.present keys rnd).step ht, (step_params ht :)⟩
  · exact ⟨h, rfl⟩
  · exact ⟨h, rfl⟩

theorem Inv.loadProgram {s t : State} (h : Inv s) {bs : List Byte} (hload : loadProgram bs s = some t) :
    Inv t ∧ t.params = s.params := by
  unfold Sys2Proof.Machine.loadProgram at hload
  split_ifs at hload with hlen
  cases hload
  have hfit : progBase + bs.length ≤ memSize := by
    have hmax : maxProgram = 3584 := rfl
    rw [progBase, memSize_eq]
    omega
  exact ⟨⟨Memory.wf_writeList h.mem_wf bs hfit, h.pc_le, h.i_lt, h.slot_le, h.fault_eq, h.not_stopped⟩, rfl⟩

theorem act_loadProgram_some {s t : State} {bs : List Byte} (h : loadProgram bs s = some t) :
    (act s (.loadProgram bs)).1 = t := by
  simp only [act, h]

theorem act_loadProgram_none {s : State} {bs : List Byte} (h : loadProgram bs s = none) :
    (act s (.loadProgram bs)).1 = s := by
  simp only [act, h]

theorem Inv.portReset (s : State) : Inv (portReset s) :=
  have h := resetWith_inv s.params
  ⟨h.mem_wf, h.pc_le, h.i_lt, h.slot_le, h.fault_eq, h.not_stopped⟩

theorem Inv.act {s : State} (h : Inv s) (e : HostEvent) : Inv (act s e).1 ∧ (act s e).1.params = s.params := by
  cases e with
  | reset => exact ⟨Inv.portReset s, rfl⟩
  | loadProgram bs =>
    cases hload : Sys2Proof.Machine.loadProgram bs s with
    | some t => rw [act_loadProgram_some hload]; exact h.loadProgram hload
    | none => rw [act_loadProgram_none hload]; exact ⟨h, rfl⟩
  | step keys rnd => exact h.portStep keys rnd
  | decrementDelayTimer => exact ⟨⟨h.mem_wf, h.pc_le, h.i_lt, h.slot_le, h.fault_eq, h.not_stopped⟩, rfl⟩
  | decrementSoundTimer => exact ⟨⟨h.mem_wf, h.pc_le, h.i_lt, h.slot_le, h.fault_eq, h.not_stopped⟩, rfl⟩
  | fbGet x y => exact ⟨h, rfl⟩
  | readTone => exact ⟨h, rfl⟩

end Sys2Proof.Machine

/-- Settles O51: each clause for each way a step can end. -/
theorem stepKeepsInvariant : Obligations.StepKeepsInvariant := fun _ _ h hstep => h.step hstep

/-- Settles O52, by induction on the history. -/
theorem everyHistoryKeepsInvariant : Obligations.EveryHistoryKeepsInvariant := by
  intro s es h
  induction es generalizing s with
  | nil => exact ⟨h, rfl⟩
  | cons e es ih =>
    obtain ⟨hinv, hparams⟩ := h.act e
    obtain ⟨hend, hendparams⟩ := ih (act s e).1 hinv
    exact ⟨hend, hendparams.trans hparams⟩

/-- Settles O50: the reset state for any parameters, of which `State.reset` is the one for the default ones. -/
theorem resetMeetsInvariant : Obligations.ResetMeetsInvariant :=
  ⟨State.resetWith_defaultParams ▸ resetWith_inv defaultParams, resetWith_inv⟩

/-- Settles O1: the fields of the reset state, and its memory is the font over the empty one. -/
theorem resetLeavesSpecifiedState : Obligations.ResetLeavesSpecifiedState := by
  refine ⟨fun p => ⟨fun r => ?_, rfl, rfl, rfl, rfl, rfl, fun k => ?_, pixel_fbClear, rfl, rfl, fun a ha => ?_,
    fun a ha _ => ?_⟩, State.resetWith_defaultParams⟩
  · exact Vector.getElem_replicate r.isLt
  · exact Vector.getElem_replicate k.isLt
  · rw [State.resetWith_mem_read, dif_pos ha]
  · rw [State.resetWith_mem_read, dif_neg (by omega), resetByte, dif_neg (by omega)]

end

section
/-! What an instruction cannot observe: slots at or above SP (10_state.md R31), and the inputs of a step for every
instruction but four (60_exceptions.md R250). -/

open Sys2Proof Sys2Proof.Machine

namespace Sys2Proof.Machine

/-- Two states in which an instruction meets the same error and refusal stay related when all three ends relate
them. -/
theorem State.outcome_related {s t : State} {i : Instr} (R : State → State → Prop)
    (he : specErr i t = specErr i s) (hr : specRefused i t = specRefused i s)
    (hraised : ∀ e, R ((s.uptoError i).raised e) ((t.uptoError i).raised e))
    (hrefused : R s.refusedState t.refusedState)
    (hcompleted : specErr i s = none → R (s.completed i) (t.completed i)) : R (s.outcome i) (t.outcome i) := by
  obtain ⟨e, hs, h⟩ | ⟨hs, hrs, h⟩ | ⟨hs, hrs, h⟩ := s.outcome_cases i
  · rw [h, State.outcome_raised (he.trans hs)]; exact hraised e
  · rw [h, State.outcome_refused (he.trans hs) (hr.trans hrs)]; exact hrefused
  · rw [h, State.outcome_completed (he.trans hs) (hr.trans hrs)]; exact hcompleted hs

/-! ### Slots at or above SP -/

theorem State.loaded_withStack (s : State) (σ : Stack) (x : Reg) :
    State.loaded { s with stack := σ } x = s.loaded x := by
  unfold State.loaded; rfl

theorem State.uptoError_withStack (s : State) (σ : Stack) (i : Instr) :
    State.uptoError { s with stack := σ } i = { s.uptoError i with stack := σ } := by
  cases i with
  | ldVxMem x => simp only [State.uptoError, State.loaded_withStack]
  | _ => rfl

/-- Completion reads the stack only for the slot RET pops. -/
theorem State.completed_withStack (s : State) (σ : Stack) {i : Instr}
    (hpc : specPc i { s with stack := σ } = specPc i s) :
    State.completed { s with stack := σ } i =
      { s.completed i with stack := State.stackAfter { s with stack := σ } i } := by
  rw [State.completed, hpc]
  cases i with
  | ldVxMem x => simp only [State.completed, State.vAfter, State.loaded_withStack]; rfl
  | _ => rfl

theorem AgreeOnLiveSlots.exists_stack {s t : State} (h : AgreeOnLiveSlots s t) :
    ∃ σ, t = { s with stack := σ } ∧ ∀ (k : Nat) (hk : k < 16), k < s.sp.val → s.stack[k] = σ[k] :=
  ⟨t.stack, h⟩

section
variable {s : State} {σ : Stack} (hlive : ∀ (k : Nat) (hk : k < 16), k < s.sp.val → s.stack[k] = σ[k])
include hlive

/-- Above SP = 0, the slot RET pops is a live one. -/
theorem topSlot_of_live (hsp : s.sp.val ≠ 0) : State.topSlot { s with stack := σ } = s.topSlot :=
  (hlive (s.sp.val - 1) (by omega) (by omega)).symm

theorem specErr_of_live (i : Instr) : specErr i { s with stack := σ } = specErr i s := by
  cases i with
  | ret =>
    by_cases hsp : s.sp.val = 0
    · rw [specErr, if_pos hsp, specErr, if_pos hsp]
    · rw [specErr, specErr, topSlot_of_live hlive hsp]
  | _ => rfl

theorem specPc_of_live {i : Instr} (he : specErr i s = none) : specPc i { s with stack := σ } = specPc i s := by
  cases i with
  | ret =>
    have hsp : s.sp.val ≠ 0 := fun hsp => by rw [specErr, if_pos hsp] at he; cases he
    rw [specPc, specPc, topSlot_of_live hlive hsp]
  | _ => rfl

/-- RET lowers the live boundary, CALL moves it over the slot it fills with the same PC. -/
theorem stackAfter_of_live (i : Instr) (k : Nat) (hk : k < 16) (hlt : k < (s.spAfter i).val) :
    (s.stackAfter i)[k] = (State.stackAfter { s with stack := σ } i)[k] := by
  cases i with
  | ret => exact hlive k hk (lt_of_lt_of_le hlt (Nat.sub_le _ _))
  | call nnn =>
    have hle : k < s.sp.val + 1 := lt_of_lt_of_le hlt (Nat.min_le_left _ _)
    by_cases hroom : s.sp.val < 16
    · simp only [State.stackAfter, hroom, dite_true, Vector.getElem_set]
      split_ifs with hkSP
      · rfl
      · exact hlive k hk (by omega)
    · simp only [State.stackAfter, hroom, dite_false]
      exact hlive k hk (by omega)
  | _ => exact hlive k hk hlt

theorem outcome_of_live (i : Instr) : AgreeOnLiveSlots (s.outcome i) (State.outcome { s with stack := σ } i) := by
  refine State.outcome_related AgreeOnLiveSlots (specErr_of_live hlive i) (by cases i <;> rfl) (fun e => ?_)
    ⟨rfl, hlive⟩ fun he => ?_
  · rw [State.uptoError_withStack s σ i]
    refine ⟨rfl, fun k hk hlt => ?_⟩
    have hle : (s.uptoError i).sp.val ≤ s.sp.val := by
      cases i with
      | ret => exact Nat.sub_le _ _
      | _ => exact le_rfl
    rw [State.raised_stack, State.uptoError_stack]
    exact hlive k hk (lt_of_lt_of_le hlt hle)
  · rw [State.completed_withStack s σ (specPc_of_live hlive he)]
    exact ⟨rfl, stackAfter_of_live hlive i⟩

end

namespace AgreeOnLiveSlots

variable {s t : State} (h : AgreeOnLiveSlots s t)
include h

theorem fault_eq : t.fault = s.fault := by
  rw [h.1]

theorem params_eq : t.params = s.params := by
  rw [h.1]

theorem fetch_eq : fetch t = fetch s := by
  rw [h.1]; rfl

theorem beginStep : AgreeOnLiveSlots s.beginStep t.beginStep := by
  obtain ⟨σ, rfl, hlive⟩ := h.exists_stack
  exact ⟨rfl, hlive⟩

theorem endStep : AgreeOnLiveSlots s.endStep t.endStep := by
  obtain ⟨σ, rfl, hlive⟩ := h.exists_stack
  exact ⟨rfl, hlive⟩

theorem raised (e : Err) : AgreeOnLiveSlots (s.raised e) (t.raised e) := by
  obtain ⟨σ, rfl, hlive⟩ := h.exists_stack
  exact ⟨rfl, hlive⟩

theorem outcome (i : Instr) : AgreeOnLiveSlots (s.outcome i) (t.outcome i) := by
  obtain ⟨σ, rfl, hlive⟩ := h.exists_stack
  exact outcome_of_live hlive i

end AgreeOnLiveSlots

/-! ### The inputs of a step -/

theorem State.loaded_withInputs (s : State) (l : List StepInput) (d : Nat) (x : Reg) :
    State.loaded { s with inputs := l, draws := d } x = s.loaded x := by
  unfold State.loaded; rfl

theorem State.uptoError_withInputs (s : State) (l : List StepInput) (d : Nat) (i : Instr) :
    State.uptoError { s with inputs := l, draws := d } i = { s.uptoError i with inputs := l, draws := d } := by
  cases i with
  | ldVxMem x => simp only [State.uptoError, State.loaded_withInputs]
  | _ => rfl

theorem State.completed_withInputs (s : State) (l : List StepInput) (d : Nat) {i : Instr} (h : readsInputs i = false) :
    State.completed { s with inputs := l, draws := d } i = { s.completed i with inputs := l, draws := d } := by
  cases i with
  | rnd | skp | sknp | ldVxK => cases h
  | ldVxMem x => simp only [State.completed, State.vAfter, State.loaded_withInputs]; rfl
  | _ => rfl

theorem State.outcome_withInputs (s : State) (l : List StepInput) (d : Nat) {i : Instr} (h : readsInputs i = false) :
    State.outcome { s with inputs := l, draws := d } i = { s.outcome i with inputs := l, draws := d } := by
  refine State.outcome_related (s := s) (i := i) (fun u u' => u' = { u with inputs := l, draws := d })
    (by cases i <;> rfl) (by cases i <;> rfl) (fun e => ?_) rfl fun _ => State.completed_withInputs s l d h
  rw [State.uptoError_withInputs s l d i]; rfl

end Sys2Proof.Machine

/-- Settles O54: the fetch reads no slot, and the outcome of an instruction agrees on the live slots again. -/
theorem deadSlotsAreUnobservable : Obligations.DeadSlotsAreUnobservable := by
  intro s t h
  cases hf : s.fault with
  | some c => exact .inr ⟨.stopped c, step_stopped hf, step_stopped (h.fault_eq.trans hf)⟩
  | none =>
    have hft := h.fault_eq.trans hf
    left
    cases hw : fetch s with
    | error e =>
      exact ⟨_, _, step_fetch_error hf hw, step_fetch_error hft (h.fetch_eq.trans hw), (h.beginStep.raised e).endStep⟩
    | ok w =>
      have hwt := h.fetch_eq.trans hw
      cases hd : decodeWord s.params.strict59 w with
      | error e =>
        exact ⟨_, _, step_unknown hf hw hd, step_unknown hft hwt (h.params_eq ▸ hd), (h.beginStep.raised _).endStep⟩
      | ok i =>
        exact ⟨_, _, step_outcome hf hw hd, step_outcome hft hwt (h.params_eq ▸ hd), (h.beginStep.outcome i).endStep⟩

/-- Settles O55: with other inputs an instruction that does not read them has the same outcome. -/
theorem unusedInputsAreIgnored : Obligations.UnusedInputsAreIgnored := by
  intro i s t l d hreads hexec
  rw [exec_eq, State.outcome_withInputs s l d hreads, eq_outcome_of_exec hexec]

/-- Settles O53: a JP to PC leaves the state at which the step began. -/
theorem idleLoopStaysIdle : Obligations.IdleLoopStaysIdle := by
  rintro s ⟨hf, w, nnn, hw, hd, hnnn⟩
  have htarget : nnnTarget nnn = s.pc := BitVec.eq_of_toNat_eq ((nnnTarget_toNat nnn).trans hnnn)
  refine ⟨s.beginStep.endStep, ?_, ⟨hf, w, nnn, hw, hd, hnnn⟩, rfl⟩
  rw [step_exec hf hw hd, exec_jp, htarget]; rfl

end

section
/-! Errors in a state of the invariant: what they leave, which never come up, and a step tried again
(60_exceptions.md sections 1 and 3); and which instructions move a timer (45_timers_keypad.md R210). -/

open Sys2Proof Sys2Proof.Machine

namespace Sys2Proof.Machine

/-! ### Errors that change nothing but `fault` -/

theorem Inv.topSlot_le {s : State} (h : Inv s) : s.topSlot.toNat ≤ 0xFFE := h.slot_le _ _

/-- The slot RET pops always lies inside memory, so only an empty stack stops it. -/
theorem Inv.specErr_ret {s : State} (h : Inv s) :
    specErr .ret s = if s.sp.val = 0 then some .stackUnderflow else none := by
  have hslot := h.topSlot_le
  rw [specErr, if_neg (by omega : ¬ 4096 ≤ s.topSlot.toNat)]

theorem Inv.uptoError_eq_self {s : State} (h : Inv s) {i : Instr} {e : Err} (hpartial : hasPartialEffect i = false)
    (he : specErr i s = some e) : s.uptoError i = s := by
  cases i with
  | ret =>
    rw [h.specErr_ret] at he
    split_ifs at he with hsp
    exact State.popped_of_empty hsp
  | ldBVx | ldMemVx | ldVxMem => cases hpartial
  | _ => rfl

/-! ### Errors that never come up -/

/-- The table has no ValueOverflow and no framebuffer OutOfRange (R231). -/
theorem specErr_reachable {i : Instr} {s : State} {e : Err} (h : specErr i s = some e) :
    (∀ v, e ≠ .valueOverflow v) ∧ ∀ x y, e ≠ .outOfRangePixel x y := by
  cases i with
  | ret | call | drw | skp | sknp | ldFVx | ldBVx | ldMemVx | ldVxMem =>
    rw [specErr] at h
    split_ifs at h <;> cases h <;> exact ⟨nofun, nofun⟩
  | _ => cases h

theorem fetch_error_eq {s : State} {e : Err} (h : fetch s = .error e) : e = .outOfRange (max s.pc.toNat memSize) := by
  rw [fetch_eq] at h
  split_ifs at h
  exact (Except.error.inj h).symm

theorem State.outcome_result_err {s : State} {i : Instr} {e : Err} (hok : s.result = .ok)
    (h : (s.outcome i).result = .err e) : specErr i s = some e := by
  obtain ⟨e', he, ho⟩ | ⟨-, -, ho⟩ | ⟨-, -, ho⟩ := s.outcome_cases i
  · rw [ho] at h
    cases h
    exact he
  · rw [ho] at h
    cases h
  · rw [ho] at h
    exact nomatch hok.symm.trans h

/-- Every error a step can raise is that of a fetch, an unknown opcode or the table. -/
theorem step_error_cases {s t : State} {e : Err} (hstep : step s = .next t) (h : t.result = .err e) :
    (∃ a, e = .outOfRange a) ∨ (∃ w, e = .unknownOpcode w) ∨ ∃ i, specErr i s.beginStep = some e := by
  obtain ⟨-, ⟨e', he, rfl⟩ | ⟨w, -, -, rfl⟩ | ⟨w, i, -, -, rfl⟩⟩ := step_next_outcome hstep
  · cases h
    exact .inl ⟨_, fetch_error_eq he⟩
  · cases h
    exact .inr (.inl ⟨w, rfl⟩)
  · exact .inr (.inr ⟨i, State.outcome_result_err rfl h⟩)

theorem step_next_of_fetched {s t : State} {w : Word} {i : Instr} (hstep : step s = .next t) (hw : fetch s = .ok w)
    (hd : decodeWord s.params.strict59 w = .ok i) : t = (s.beginStep.outcome i).endStep := by
  obtain ⟨hf, -⟩ := step_next_outcome hstep
  rw [step_outcome hf hw hd] at hstep
  cases hstep; rfl

/-! ### A failing step tried again -/

/-- A state made ready for a step tried again: `fault` cleared, Ok on the result port, and whatever inputs are left. -/
def State.again (s : State) (l : List StepInput) (d : Nat) : State :=
  { s with fault := none, result := .ok, inputs := l, draws := d }

theorem fetch_congr {s t : State} (hpc : t.pc = s.pc) (hhi : t.mem.read s.pc.toNat = s.mem.read s.pc.toNat)
    (hlo : t.mem.read (s.pc.toNat + 1) = s.mem.read (s.pc.toNat + 1)) : fetch t = fetch s := by
  rw [fetch_eq, fetch_eq, hpc, hhi, hlo]

theorem State.stored_read (s : State) (vs : List Nat) (a : Nat) : (s.stored vs).read a =
    if h : s.i ≤ a ∧ a - s.i < ((vs.take (4096 - s.i)).map (BitVec.ofNat 8)).length
      then ((vs.take (4096 - s.i)).map (BitVec.ofNat 8))[a - s.i]'h.2 else s.mem.read a :=
  Memory.read_writeList _ _ _ _

/-- Storing the same bytes twice reads as storing them once. -/
theorem State.stored_read_again {s t : State} {vs : List Nat} (hi : t.i = s.i) (hmem : t.mem = s.stored vs) (a : Nat) :
    (t.stored vs).read a = (s.stored vs).read a := by
  have htwice := t.stored_read vs a
  rw [hmem, s.stored_read vs a] at htwice
  rw [htwice, s.stored_read vs a]
  simp only [hi]
  split_ifs <;> rfl

/-- Tried again, an instruction brings the registers and bytes to where its failing attempt had brought them. -/
theorem State.uptoError_again (s : State) (i : Instr) (l : List StepInput) (d : Nat) :
    (((s.uptoError i).again l d).uptoError i).v = (s.uptoError i).v ∧
    ∀ a, (((s.uptoError i).again l d).uptoError i).mem.read a = (s.uptoError i).mem.read a := by
  cases i with
  | ldBVx x => exact ⟨rfl, State.stored_read_again rfl rfl⟩
  | ldMemVx x => exact ⟨rfl, State.stored_read_again rfl rfl⟩
  | ldVxMem x =>
    refine ⟨State.ext_v fun q => ?_, fun _ => rfl⟩
    show (State.loaded _ x)[q.val] = (s.loaded x)[q.val]
    rw [State.loaded_getElem, s.loaded_getElem]
    by_cases hq : q ≤ x ∧ s.i + q.val < 4096
    · exact (if_pos hq).trans (if_pos hq).symm
    · refine (if_neg hq).trans ?_
      show (s.loaded x)[q.val] = _
      rw [s.loaded_getElem]
  | _ => exact ⟨rfl, fun _ => rfl⟩

/-- What an instruction does before it fails does not change whether it fails. -/
theorem Inv.specErr_again {s : State} (h : Inv s) {i : Instr} {e : Err} (he : specErr i s = some e)
    (l : List StepInput) (d : Nat) : specErr i ((s.uptoError i).again l d) = some e := by
  cases i with
  | ret => rw [h.uptoError_eq_self rfl he]; exact he
  | _ => exact he

/-- The same error raised in two states with the same registers and bytes. -/
theorem State.raised_endStep_eq {s t : State} (e : Err) (hv : t.v = s.v) (hmem : t.mem = s.mem) :
    (t.raised e).endStep.fault = (s.raised e).endStep.fault ∧
    (t.raised e).endStep.result = (s.raised e).endStep.result ∧
    (t.raised e).endStep.v = (s.raised e).endStep.v ∧
    ∀ a, (t.raised e).endStep.mem.read a = (s.raised e).endStep.mem.read a :=
  ⟨rfl, rfl, hv, fun a => congrArg (Memory.read · a) hmem⟩

/-- An instruction that failed or was refused does so again, with the same registers and bytes. -/
theorem Inv.outcome_again {s : State} (h : Inv s) (hf : s.fault = none) {i : Instr}
    (hfault : (s.outcome i).fault ≠ none) (l : List StepInput) (d : Nat) :
    (((s.outcome i).again l d).outcome i).fault = (s.outcome i).fault ∧
    (((s.outcome i).again l d).outcome i).result = (s.outcome i).result ∧
    (((s.outcome i).again l d).outcome i).v = (s.outcome i).v ∧
    ∀ a, (((s.outcome i).again l d).outcome i).mem.read a = (s.outcome i).mem.read a := by
  obtain ⟨e, he, ho⟩ | ⟨he, hr, ho⟩ | ⟨-, -, ho⟩ := s.outcome_cases i
  · have hready : ((s.uptoError i).raised e).again l d = (s.uptoError i).again l d := rfl
    obtain ⟨hv, hmem⟩ := s.uptoError_again i l d
    rw [ho, hready, State.outcome_raised (h.specErr_again he l d)]
    exact ⟨rfl, rfl, hv, hmem⟩
  · have he' : specErr i (s.refusedState.again l d) = none := by
      rw [← he]
      cases i <;> rfl
    have hr' : specRefused i (s.refusedState.again l d) = true := by
      rw [← hr]
      cases i <;> rfl
    rw [ho, State.outcome_refused he' hr']
    exact ⟨rfl, rfl, rfl, fun _ => rfl⟩
  · rw [ho] at hfault
    exact absurd hf hfault

/-! ### A failing step that overwrites its own word -/

/-- An FX33 at 0xFFE with I = 0xFFE and V0 = 0: it stores 0 over its own two bytes and then fails at 0x1000. -/
def selfOverwriting : State :=
  { State.reset with mem := State.reset.mem.writeList 0xFFE [0xF0, 0x33], i := 0xFFE, pc := 0xFFE }

theorem selfOverwriting_inv : Inv selfOverwriting where
  mem_wf := Memory.wf_writeList reset_mem_wf _ (by decide)
  pc_le := by decide
  i_lt _ := by decide
  slot_le := resetMeetsInvariant.1.slot_le
  fault_eq := rfl
  not_stopped := nofun

end Sys2Proof.Machine

/-- Settles O38: an outcome changes DT only where `dtAfter` does and ST only where `stAfter` does. -/
theorem onlyTimerLoadsChangeTimers : Obligations.OnlyTimerLoadsChangeTimers := by
  intro s t hstep
  obtain ⟨-, ⟨e, -, rfl⟩ | ⟨w, -, -, rfl⟩ | ⟨w, i, hw, hd, rfl⟩⟩ := step_next_outcome hstep
  · exact ⟨fun hdt => absurd rfl hdt, fun hst => absurd rfl hst⟩
  · exact ⟨fun hdt => absurd rfl hdt, fun hst => absurd rfl hst⟩
  · refine ⟨fun hdt => ?_, fun hst => ?_⟩
    · cases i with
      | ldDtVx x => exact ⟨w, x, hw, hd, rfl⟩
      | _ => exact absurd (State.outcome_dt rfl) hdt
    · cases i with
      | ldStVx x => exact ⟨w, x, hw, hd, rfl⟩
      | _ => exact absurd (State.outcome_st rfl) hst

/-- Settles O42: in the invariant nothing precedes the failing check of the other instructions. -/
theorem errorsWithoutPartialEffects : Obligations.ErrorsWithoutPartialEffects := by
  intro i s t hinv hf _ hpartial hexec hfault
  rw [eq_outcome_of_exec hexec] at hfault ⊢
  obtain ⟨e, he, h⟩ | ⟨-, -, h⟩ | ⟨-, -, h⟩ := s.outcome_cases i
  · rw [h, hinv.uptoError_eq_self hpartial he]; rfl
  · rw [h]; rfl
  · rw [h] at hfault; exact absurd hf hfault

/-- Settles O45: the errors of a fetch, an unknown opcode and the table; of RET and CALL in the invariant. -/
theorem unreachableErrorsNeverRaised : Obligations.UnreachableErrorsNeverRaised := by
  refine fun s t hinv hstep => ⟨fun v h => ?_, fun x y h => ?_, fun w i a hw hd hi h => ?_⟩
  · obtain ⟨a, he⟩ | ⟨w, he⟩ | ⟨i, he⟩ := step_error_cases hstep h
    · cases he
    · cases he
    · exact (specErr_reachable he).1 v rfl
  · obtain ⟨a, he⟩ | ⟨w, he⟩ | ⟨i, he⟩ := step_error_cases hstep h
    · cases he
    · cases he
    · exact (specErr_reachable he).2 x y rfl
  · have hf := (step_next_outcome hstep).1
    rw [step_next_of_fetched hstep hw hd] at h
    have he : specErr i s.beginStep = some (.outOfRange a) := State.outcome_result_err rfl h
    obtain rfl | ⟨nnn, rfl⟩ := hi
    · rw [(hinv.beginStep hf).specErr_ret] at he
      split_ifs at he
      cases he
    · have hpc : s.beginStep.pc.toNat + 1 < 4096 := pc_of_fetch hw
      rw [specErr, if_neg (by omega : ¬ 4096 ≤ s.beginStep.pc.toNat)] at he
      split_ifs at he
      cases he

/-- Settles O43: with its own word in place the step runs the same instruction, which fails the same way again. -/
theorem retryFailsTheSameWay : Obligations.RetryFailsTheSameWay := by
  intro s t hinv hstep hfault hhi hlo
  have hfetch : fetch { t with fault := none } = fetch s :=
    fetch_congr (errorsArePreciseAndSticky s t hstep hfault).1 hhi hlo
  have hdecode (w : Word) : decodeWord t.params.strict59 w = decodeWord s.params.strict59 w := by
    rw [step_params hstep]
  obtain ⟨hf, ⟨e, he, ht⟩ | ⟨w, hw, hd, ht⟩ | ⟨w, i, hw, hd, ht⟩⟩ := step_next_outcome hstep
  · refine ⟨_, step_fetch_error rfl (hfetch.trans he), ?_⟩
    rw [ht]
    exact State.raised_endStep_eq _ rfl rfl
  · refine ⟨_, step_unknown rfl (hfetch.trans hw) ((hdecode w).trans hd), ?_⟩
    rw [ht]
    exact State.raised_endStep_eq _ rfl rfl
  · refine ⟨_, step_outcome rfl (hfetch.trans hw) ((hdecode w).trans hd), ?_⟩
    rw [ht] at hfault ⊢
    exact (hinv.beginStep hf).outcome_again hf hfault _ _

/-- Refutes O44: tried again, the core of `selfOverwriting` fetches 0000, a SYS, which is refused. -/
theorem not_retryFailsTheSameWayAlways : ¬ Obligations.RetryFailsTheSameWayAlways := by
  intro h
  obtain ⟨u, hu, hfault⟩ := h selfOverwriting _ selfOverwriting_inv rfl (by decide)
  cases hu
  exact absurd hfault (by decide)

end

section
/-! The frame of each family of instructions: which fields and which registers, slots and bytes it leaves alone. -/

open Sys2Proof Sys2Proof.Machine

namespace Sys2Proof.Machine

/-! ### Registers -/

theorem State.setV_v_other (s : State) {x r : Reg} (b : Byte) (h : r ≠ x) : (s.setV x b).v[r.val] = s.v[r.val] :=
  s.getV_setV_other b h

theorem State.setFlag_v_other (s : State) {r : Reg} (f : Bool) (h : r ≠ 15) : (s.setFlag f).v[r.val] = s.v[r.val] :=
  s.setV_v_other _ h

theorem State.setResultFlag_v_other (s : State) {x r : Reg} (b : Byte) (f : Bool) (hx : r ≠ x) (hF : r ≠ 15) :
    (s.setResultFlag x b f).v[r.val] = s.v[r.val] :=
  (State.setFlag_v_other _ f hF).trans (s.setV_v_other b hx)

theorem State.loaded_other (s : State) {x r : Reg} (h : x < r) : (s.loaded x)[r.val] = s.v[r.val] := by
  rw [State.loaded_getElem, if_neg fun hr => absurd hr.1 (not_le.2 h), State.getV_eq]

theorem State.outcome_v {s : State} {i : Instr} (hupto : (s.uptoError i).v = s.v) (h : s.vAfter i = s.v) :
    (s.outcome i).v = s.v :=
  State.outcome_keeps State.v (fun _ => hupto) rfl h

theorem State.outcome_getElem_v {s : State} {i : Instr} {r : Reg} (hupto : (s.uptoError i).v[r.val] = s.v[r.val])
    (h : (s.vAfter i)[r.val] = s.v[r.val]) : (s.outcome i).v[r.val] = s.v[r.val] :=
  State.outcome_keeps (fun t => t.v[r.val]) (fun _ => hupto) rfl h

theorem State.vAfter_ldVxK_other (s : State) {x r : Reg} (h : r ≠ x) :
    (s.vAfter (.ldVxK x))[r.val] = s.v[r.val] := by
  rw [State.vAfter]
  cases chooseKey (Config.freeKeyPick s.draws) s.downKeys with
  | none => rfl
  | some k => exact s.setV_v_other _ h

/-! ### I -/

theorem State.iPast_of_off {s : State} (h : s.params.ldstIncrementsI = false) (x : Reg) : s.iPast x = s.i := by
  rw [State.iPast, if_neg (by simp [h])]

/-! ### Stack and memory -/

theorem State.outcome_sp {s : State} {i : Instr} (hupto : (s.uptoError i).sp = s.sp) (h : s.spAfter i = s.sp) :
    (s.outcome i).sp = s.sp :=
  State.outcome_keeps State.sp (fun _ => hupto) rfl h

theorem State.stackAfter_other (s : State) (i : Instr) {k : Nat} (hk : k < 16) (hsp : k ≠ s.sp.val) :
    (s.stackAfter i)[k] = s.stack[k] := by
  cases i with
  | call nnn =>
    rw [State.stackAfter]
    split_ifs with hroom
    · exact Vector.getElem_set_ne _ _ hsp.symm
    · rfl
  | _ => rfl

theorem State.outcome_sp_of_ne {i : Instr} (hret : i ≠ .ret) (hcall : ∀ nnn, i ≠ .call nnn) (s : State) :
    (s.outcome i).sp = s.sp := by
  cases i with
  | ret => exact absurd rfl hret
  | call nnn => exact absurd rfl (hcall nnn)
  | _ => exact State.outcome_sp rfl rfl

theorem State.outcome_stack_of_ne {i : Instr} (hcall : ∀ nnn, i ≠ .call nnn) (s : State) :
    (s.outcome i).stack = s.stack := by
  cases i with
  | call nnn => exact absurd rfl (hcall nnn)
  | _ => exact State.outcome_stack rfl

theorem State.outcome_stack_other (s : State) (i : Instr) {k : Nat} (hk : k < 16) (hsp : k ≠ s.sp.val) :
    (s.outcome i).stack[k] = s.stack[k] :=
  State.outcome_keeps (fun t => t.stack[k]) (fun _ => by simp) rfl (s.stackAfter_other i hk hsp)

theorem State.outcome_mem_read {s : State} {i : Instr} {a : Nat}
    (hupto : (s.uptoError i).mem.read a = s.mem.read a) (h : (s.memAfter i).read a = s.mem.read a) :
    (s.outcome i).mem.read a = s.mem.read a :=
  State.outcome_keeps (fun t => t.mem.read a) (fun _ => hupto) rfl h

/-- Storing `vs` from I on leaves every byte outside their addresses. -/
theorem State.stored_read_other (s : State) {vs : List Nat} {a : Nat} (h : ¬ (s.i ≤ a ∧ a < s.i + vs.length)) :
    (s.stored vs).read a = s.mem.read a := by
  rw [State.stored_read, dif_neg]
  rintro ⟨hle, hlt⟩
  rw [List.length_map, List.length_take] at hlt
  omega

end Sys2Proof.Machine

/-- Settles O46: these instructions meet no error, and what completion writes is Vx, or Vx and the flag. -/
theorem registerInstructionsFrame : Obligations.RegisterInstructionsFrame := by
  refine fun x y nn s t => ⟨fun i hi hexec => ?_, fun i hi hexec => ?_⟩
  · rw [eq_outcome_of_exec hexec]
    simp only [List.mem_cons, List.not_mem_nil, or_false] at hi
    obtain rfl | rfl | rfl | rfl | rfl | rfl | rfl | rfl | rfl := hi
    all_goals refine ⟨fun r hr => ?_, rfl, rfl, rfl, ⟨fun _ => rfl, rfl, rfl, rfl⟩, rfl, rfl, rfl, rfl, rfl⟩
    on_goal 9 => exact s.vAfter_ldVxK_other hr
    all_goals exact s.setV_v_other _ hr
  · rw [eq_outcome_of_exec hexec]
    simp only [List.mem_cons, List.not_mem_nil, or_false] at hi
    obtain rfl | rfl | rfl | rfl | rfl := hi
    all_goals
      exact ⟨fun r hx hF => s.setResultFlag_v_other _ _ hx hF, rfl, rfl, rfl, ⟨fun _ => rfl, rfl, rfl, rfl⟩, rfl, rfl,
        rfl, rfl, rfl⟩

/-- Settles O47: of these instructions only RET and CALL touch SP, and only CALL the stack, at SP. -/
theorem controlFlowFrame : Obligations.ControlFlowFrame := by
  intro x y n nn nnn s t i hi hexec
  rw [eq_outcome_of_exec hexec]
  have hcall (h : i ≠ .call nnn) (a : Addr12) : i ≠ .call a := by
    rintro rfl
    exact h (by simpa using hi)
  have hfields : (s.outcome i).v = s.v ∧ (s.outcome i).i = s.i ∧ (s.outcome i).dt = s.dt ∧ (s.outcome i).st = s.st ∧
      (s.outcome i).fb = s.fb ∧ ∀ a, (s.outcome i).mem.read a = s.mem.read a := by
    simp only [List.mem_cons, List.not_mem_nil, or_false] at hi
    obtain rfl | rfl | rfl | rfl | rfl | rfl | rfl | rfl | rfl | rfl | rfl := hi
    all_goals
      exact ⟨State.outcome_v rfl rfl, State.outcome_i rfl, State.outcome_dt rfl, State.outcome_st rfl,
        State.outcome_fb rfl, fun _ => State.outcome_mem_read rfl rfl⟩
  obtain ⟨hv, hI, hdt, hst, hfb, hmem⟩ := hfields
  exact ⟨hv, hI, hdt, hst, hfb, hmem, s.outcome_sameHost i, fun hret h => State.outcome_sp_of_ne hret (hcall h) s,
    fun h => State.outcome_stack_of_ne (hcall h) s, fun k hk hsp => s.outcome_stack_other i hk hsp⟩

/-- Settles O48: the stored ranges, the registers FX65 loads, and I where FX55 and FX65 move it. -/
theorem indexAndMemoryFrame : Obligations.IndexAndMemoryFrame := by
  refine fun x nnn s t => ⟨fun i hi hexec => ?_, fun hexec a ha => ?_, fun hexec a ha => ?_, fun i hi hexec => ?_⟩
  · rw [eq_outcome_of_exec hexec]
    simp only [List.mem_cons, List.not_mem_nil, or_false] at hi
    obtain rfl | rfl | rfl | rfl := hi
    all_goals exact fun _ => State.outcome_mem_read rfl rfl
  · rw [eq_outcome_of_exec hexec]
    have hout : (s.stored (bcdDigits (s.getV x))).read a = s.mem.read a :=
      s.stored_read_other fun h => ha ⟨h.1, Nat.le_of_lt_succ h.2⟩
    exact State.outcome_mem_read hout hout
  · rw [eq_outcome_of_exec hexec]
    have hout : (s.stored (s.valuesUpTo x)).read a = s.mem.read a :=
      s.stored_read_other fun h => ha (by rw [State.length_valuesUpTo] at h; omega)
    exact State.outcome_mem_read hout hout
  · rw [eq_outcome_of_exec hexec]
    have hI (h : i = .ldBVx x ∨ (i = .ldMemVx x ∨ i = .ldVxMem x) ∧ s.params.ldstIncrementsI = false) :
        (s.outcome i).i = s.i := by
      obtain rfl | ⟨rfl | rfl, hoff⟩ := h
      · exact State.outcome_i rfl
      · exact State.outcome_i (State.iPast_of_off hoff x)
      · exact State.outcome_i (State.iPast_of_off hoff x)
    simp only [List.mem_cons, List.not_mem_nil, or_false] at hi
    have hv (r : Reg) (hr : i = .ldVxMem x → x < r) : (s.outcome i).v[r.val] = s.v[r.val] := by
      obtain rfl | rfl | rfl | rfl | rfl | rfl := hi
      on_goal 6 => exact State.outcome_getElem_v (s.loaded_other (hr rfl)) (s.loaded_other (hr rfl))
      all_goals exact State.outcome_getElem_v rfl rfl
    refine ⟨hv, hI, ?_⟩
    obtain rfl | rfl | rfl | rfl | rfl | rfl := hi
    all_goals
      exact ⟨State.outcome_dt rfl, State.outcome_st rfl, State.outcome_fb rfl, State.outcome_sp rfl rfl,
        State.outcome_stack rfl, s.outcome_sameHost _⟩

/-- Settles O49: only DRW writes a register, the flag, and only FX15 and FX18 a timer. -/
theorem displayAndTimerFrame : Obligations.DisplayAndTimerFrame := by
  intro x y n s t i hi hexec
  rw [eq_outcome_of_exec hexec]
  simp only [List.mem_cons, List.not_mem_nil, or_false] at hi
  have hv (r : Reg) (hr : i = .drw x y n → r ≠ 15) : (s.outcome i).v[r.val] = s.v[r.val] := by
    obtain rfl | rfl | rfl | rfl := hi
    on_goal 2 => exact State.outcome_getElem_v rfl (s.setFlag_v_other _ (hr rfl))
    all_goals exact State.outcome_getElem_v rfl rfl
  have hfb (h : i = .ldDtVx x ∨ i = .ldStVx x) : (s.outcome i).fb = s.fb := by
    obtain rfl | rfl := h
    · exact State.outcome_fb rfl
    · exact State.outcome_fb rfl
  have hdt (h : i ≠ .ldDtVx x) : (s.outcome i).dt = s.dt := by
    obtain rfl | rfl | rfl | rfl := hi
    on_goal 3 => exact absurd rfl h
    all_goals exact State.outcome_dt rfl
  have hst (h : i ≠ .ldStVx x) : (s.outcome i).st = s.st := by
    obtain rfl | rfl | rfl | rfl := hi
    on_goal 4 => exact absurd rfl h
    all_goals exact State.outcome_st rfl
  have hrest : (∀ a, (s.outcome i).mem.read a = s.mem.read a) ∧ (s.outcome i).sp = s.sp ∧
      (s.outcome i).stack = s.stack ∧ (s.outcome i).i = s.i := by
    obtain rfl | rfl | rfl | rfl := hi
    all_goals
      exact ⟨fun _ => State.outcome_mem_read rfl rfl, State.outcome_sp rfl rfl, State.outcome_stack rfl,
        State.outcome_i rfl⟩
  obtain ⟨hmem, hsp, hstack, hI⟩ := hrest
  exact ⟨hmem, hsp, hstack, hI, s.outcome_sameHost i, hv, hfb, hdt, hst⟩

end

section
/-! Memory: its accesses (20_memory.md R51, R52), the program load (70_reset_and_hazards.md R261), and the loads and
stores of 42_memory_index.md (R142, R144 to R146). -/

open Sys2Proof Sys2Proof.Machine

namespace Sys2Proof.Machine

/-! ### Words of family F -/

theorem encoded_addIVx : Encoded 0xF0FF 0xF01E (fun w => .addIVx (xReg w)) :=
  encoded_famF (nn := 0x1E) fun w hnn => by simp [decodeFamF, hnn]

theorem encoded_ldBVx : Encoded 0xF0FF 0xF033 (fun w => .ldBVx (xReg w)) :=
  encoded_famF (nn := 0x33) fun w hnn => by simp [decodeFamF, hnn]

theorem encoded_ldMemVx : Encoded 0xF0FF 0xF055 (fun w => .ldMemVx (xReg w)) :=
  encoded_famF (nn := 0x55) fun w hnn => by simp [decodeFamF, hnn]

theorem encoded_ldVxMem : Encoded 0xF0FF 0xF065 (fun w => .ldVxMem (xReg w)) :=
  encoded_famF (nn := 0x65) fun w hnn => by simp [decodeFamF, hnn]

/-! ### What a store from I on leaves at each address -/

theorem State.stored_read_inside (s : State) {vs : List Nat} {k : Nat} (hk : k < vs.length) (h : s.i + k < 4096) :
    (s.stored vs).read (s.i + k) = BitVec.ofNat 8 vs[k] := by
  have hlt : s.i + k - s.i < ((vs.take (4096 - s.i)).map (BitVec.ofNat 8)).length := by
    rw [List.length_map, List.length_take]
    omega
  rw [State.stored_read, dif_pos ⟨Nat.le_add_right _ _, hlt⟩]
  simp only [List.getElem_map, List.getElem_take, Nat.add_sub_cancel_left]

theorem State.stored_read_outside (s : State) {vs : List Nat} {a : Nat} (h : 4096 ≤ a) :
    (s.stored vs).read a = s.mem.read a := by
  rw [State.stored_read, dif_neg]
  rintro ⟨hle, hlt⟩
  rw [List.length_map, List.length_take] at hlt
  omega

theorem State.valuesUpTo_getElem (s : State) {x r : Reg} (hr : r.val < (s.valuesUpTo x).length) :
    (s.valuesUpTo x)[r.val] = (s.v[r.val]).toNat := by
  have hr' : r.val < (regsUpTo x).length := by rwa [State.valuesUpTo, List.length_map] at hr
  have hreg : (regsUpTo x)[r.val] = r := Fin.ext (getElem_regsUpTo x r.val hr')
  simp only [State.valuesUpTo, List.getElem_map, hreg, State.getV_eq]

/-- FX55 stores each register of its range that lands inside memory. -/
theorem State.stored_valuesUpTo_read (s : State) {x r : Reg} (hr : r ≤ x) (h : s.i + r.val < 4096) :
    (s.stored (s.valuesUpTo x)).read (s.i + r.val) = s.v[r.val] := by
  have hlt : r.val < (s.valuesUpTo x).length := by
    rw [State.length_valuesUpTo]
    exact Nat.lt_succ_of_le hr
  rw [s.stored_read_inside hlt h, s.valuesUpTo_getElem hlt, BitVec.ofNat_toNat, BitVec.setWidth_eq]

theorem State.stored_bcdDigits_read (s : State) (v : Byte) (a : Nat) : (s.stored (bcdDigits v)).read a =
    if 4096 ≤ a then s.mem.read a
    else if a = s.i then BitVec.ofNat 8 (v.toNat / 100)
    else if a = s.i + 1 then BitVec.ofNat 8 (v.toNat / 10 % 10)
    else if a = s.i + 2 then BitVec.ofNat 8 (v.toNat % 10)
    else s.mem.read a := by
  have hlen : (bcdDigits v).length = 3 := rfl
  split_ifs with hout h0 h1 h2
  · exact s.stored_read_outside hout
  · subst h0
    exact s.stored_read_inside (k := 0) (by omega) (by omega)
  · subst h1
    exact s.stored_read_inside (k := 1) (by omega) (by omega)
  · subst h2
    exact s.stored_read_inside (k := 2) (by omega) (by omega)
  · exact s.stored_read_other (by omega)

/-! ### What FX33, FX55 and FX65 leave -/

/-- Memory is as far as the stores came, whether the instruction completes or raises. -/
theorem State.outcome_mem {s : State} {i : Instr} (hr : specRefused i s = false)
    (hupto : (s.uptoError i).mem = s.memAfter i) : (s.outcome i).mem = s.memAfter i := by
  obtain ⟨e, -, h⟩ | ⟨-, hr', -⟩ | ⟨-, -, h⟩ := s.outcome_cases i
  · rw [h]; exact hupto
  · rw [hr] at hr'
    cases hr'
  · rw [h]; rfl

/-- The registers are as far as the loads came, whether FX65 completes or raises. -/
theorem State.outcome_ldVxMem_v (s : State) (x : Reg) : (s.outcome (.ldVxMem x)).v = s.loaded x := by
  obtain ⟨e, -, h⟩ | ⟨-, hr, -⟩ | ⟨-, -, h⟩ := s.outcome_cases (.ldVxMem x)
  · rw [h]; rfl
  · cases hr
  · rw [h]; rfl

theorem State.completed_advance_pc {s : State} {i : Instr} (h : specPc i s = s.pc.toNat + 2) :
    (s.completed i).pc = s.pc + 2 := by
  show BitVec.ofNat 16 (specPc i s) = s.pc + 2
  rw [h, ofNat_toNat_add]
  rfl

theorem exec_addIVx (x : Reg) (s : State) :
    exec (.addIVx x) s = .next (s.setI (indexSum s.params.iAddWidth s.i (s.getV x))).advance := rfl

theorem indexSum_eq (w : IAddWidth) (i : Nat) (v : Byte) : indexSum w i v =
    if w = .unbounded then i + v.toNat
    else if w = .w16 then (i + v.toNat) % 65536 else (i + v.toNat) % 4096 := by
  cases w <;> rfl

end Sys2Proof.Machine

/-- Settles O58, from the one equation of each access. -/
theorem memoryAccessesAreBounded : Obligations.MemoryAccessesAreBounded := by
  refine fun s a v => ⟨fun ha => ?_, fun ha => ⟨?_, ?_⟩, fun ha hv => ?_, fun ha hv => ?_⟩
  · rw [memRead_eq, memSize_eq, if_pos ha]
  · rw [memRead_eq, memSize_eq, if_neg (by omega)]
  · rw [memWrite, memSize_eq, if_pos (by omega)]
  · rw [memWrite, memSize_eq, if_neg (by omega), if_pos (by omega)]
  · refine ⟨s.setMem (s.mem.write a (BitVec.ofNat 8 v)), ?_, rfl, fun b => Memory.read_write _ _ _ _⟩
    rw [memWrite_byte s a hv, memSize_eq, if_pos ha]

/-- Settles O57: the length check, and a list of bytes written and read back. -/
theorem loadProgramWritesFromProgBase : Obligations.LoadProgramWritesFromProgBase := by
  refine fun s bs => ⟨fun hlen => ?_, fun hlen => ?_⟩
  · have hread (a : Nat) := s.mem.read_writeList 0x200 a bs
    refine ⟨s.setMem (s.mem.writeList progBase bs), if_pos hlen, rfl, fun k hk => ?_, fun a ha => ?_⟩
    · refine (hread (0x200 + k)).trans ((dif_pos (by omega)).trans ?_)
      simp only [Nat.add_sub_cancel_left]
    · exact (hread a).trans (dif_neg (by omega))
  · have hnone : loadProgram bs s = none := if_neg hlen
    exact ⟨hnone, act_loadProgram_none hnone⟩

/-- Settles O18: the encoding, one write of I and the advance, and the three widths. -/
theorem addIndexWrapsAtWidth : Obligations.AddIndexWrapsAtWidth := by
  refine ⟨encoded_addIVx, fun x s sum hsum => ?_⟩
  subst hsum
  rw [exec_addIVx, State.advance_setI, indexSum_eq, State.getV_eq]

/-- Settles O20: the encoding, the digits as far as they are stored, and the two ends of the instruction. -/
theorem bcdStoresDecimalDigits : Obligations.BcdStoresDecimalDigits := by
  refine ⟨encoded_ldBVx, fun x s v hv => ⟨_, exec_eq _ s, fun a => ?_, fun hin => ?_, fun hout => ?_⟩⟩
  · subst hv
    rw [State.outcome_mem rfl rfl]
    exact s.stored_bcdDigits_read (s.getV x) a
  · have he : specErr (.ldBVx x) s = none := if_neg (by omega)
    rw [State.outcome_completed he rfl, ← State.completed_advance_pc (i := .ldBVx x) rfl]; rfl
  · have he : specErr (.ldBVx x) s = some (.outOfRange (max s.i 4096)) := if_pos hout
    rw [State.outcome_raised he]; rfl

/-- Settles O21: the encoding, the registers as far as they are stored, and the two ends of the instruction. -/
theorem storeRegistersWritesRange : Obligations.StoreRegistersWritesRange := by
  refine ⟨encoded_ldMemVx, fun x s => ⟨_, exec_eq _ s, fun r hr hin => ?_, fun a ha => ?_, fun hin => ?_,
    fun hout => ?_⟩⟩
  · rw [State.outcome_mem rfl rfl]
    exact s.stored_valuesUpTo_read hr hin
  · rw [State.outcome_mem rfl rfl]
    by_cases hout : 4096 ≤ a
    · exact s.stored_read_outside hout
    · refine s.stored_read_other fun h => ha ?_
      rw [State.length_valuesUpTo] at h
      have hlt : a - s.i < 16 := by omega
      exact ⟨⟨a - s.i, hlt⟩, Fin.le_def.2 (by simp only; omega), by simp only; omega, by omega⟩
  · have he : specErr (.ldMemVx x) s = none := if_neg (by omega)
    rw [State.outcome_completed he rfl, ← State.completed_advance_pc (i := .ldMemVx x) rfl]; rfl
  · have he : specErr (.ldMemVx x) s = some (.outOfRange (max s.i 4096)) := if_pos hout
    rw [State.outcome_raised he]; rfl

/-- Settles O22: the encoding, the registers as far as they are loaded, and the two ends of the instruction. -/
theorem loadRegistersReadsRange : Obligations.LoadRegistersReadsRange := by
  refine ⟨encoded_ldVxMem, fun x s => ⟨_, exec_eq _ s, fun r => ?_, fun hin => ?_, fun hout => ?_⟩⟩
  · simp only [State.outcome_ldVxMem_v, State.loaded_getElem, State.getV_eq]
  · have he : specErr (.ldVxMem x) s = none := if_neg (by omega)
    rw [State.outcome_completed he rfl, ← State.completed_advance_pc (i := .ldVxMem x) rfl]; rfl
  · have he : specErr (.ldVxMem x) s = some (.outOfRange (max s.i 4096)) := if_pos hout
    rw [State.outcome_raised he]; rfl

/-- Settles O56: FX55 completes, PC is at I, and the two bytes there are V0 and V1. -/
theorem storeIsSeenByNextFetch : Obligations.StoreIsSeenByNextFetch := by
  intro s t x hexec hx hI hin
  have he : specErr (.ldMemVx x) s = none := if_neg (by omega)
  have hpc : (s.completed (.ldMemVx x)).pc.toNat = s.i := by
    rw [State.completed_pc_toNat (by omega) he, hI]; rfl
  have hV0 : (s.completed (.ldMemVx x)).mem.read s.i = s.v[0] :=
    s.stored_valuesUpTo_read (r := 0) (Fin.zero_le x) (by omega)
  have hV1 : (s.completed (.ldMemVx x)).mem.read (s.i + 1) = s.v[1] :=
    s.stored_valuesUpTo_read (r := 1) (Fin.le_def.2 hx) (by omega)
  rw [eq_outcome_of_exec hexec, State.outcome_completed he rfl, fetch_inside (by omega), hpc, hV0, hV1]

end

section
/-! Arithmetic, logic and shifts of 41_arith_logic.md (R103, R105 to R112). -/

open Sys2Proof Sys2Proof.Machine

namespace Sys2Proof.Machine

/-! ### Words of families 7 and 8 -/

theorem encoded_addVxNn : Encoded 0xF000 0x7000 (fun w => .addVxNn (xReg w) (nnField w)) :=
  encoded_fam (o := 0x7) fun strict w ho => by simp [decodeWord, ho]

theorem encoded_fam8 {n : Nibble} {f : Word → Instr} (h : ∀ w, nField w = n → decodeFam8 w = .ok (f w)) :
    Encoded 0xF00F (fmtXYN 0x8 0 0 n) f :=
  encoded_fam_n fun strict w ho hn => (decodeWord_fam8 strict ho).trans (h w hn)

theorem encoded_orVxVy : Encoded 0xF00F 0x8001 (fun w => .orVxVy (xReg w) (yReg w)) :=
  encoded_fam8 (n := 0x1) fun w hn => by simp [decodeFam8, hn]

theorem encoded_andVxVy : Encoded 0xF00F 0x8002 (fun w => .andVxVy (xReg w) (yReg w)) :=
  encoded_fam8 (n := 0x2) fun w hn => by simp [decodeFam8, hn]

theorem encoded_xorVxVy : Encoded 0xF00F 0x8003 (fun w => .xorVxVy (xReg w) (yReg w)) :=
  encoded_fam8 (n := 0x3) fun w hn => by simp [decodeFam8, hn]

theorem encoded_addVxVy : Encoded 0xF00F 0x8004 (fun w => .addVxVy (xReg w) (yReg w)) :=
  encoded_fam8 (n := 0x4) fun w hn => by simp [decodeFam8, hn]

theorem encoded_subVxVy : Encoded 0xF00F 0x8005 (fun w => .subVxVy (xReg w) (yReg w)) :=
  encoded_fam8 (n := 0x5) fun w hn => by simp [decodeFam8, hn]

theorem encoded_shr : Encoded 0xF00F 0x8006 (fun w => .shr (xReg w) (yReg w)) :=
  encoded_fam8 (n := 0x6) fun w hn => by simp [decodeFam8, hn]

theorem encoded_subn : Encoded 0xF00F 0x8007 (fun w => .subn (xReg w) (yReg w)) :=
  encoded_fam8 (n := 0x7) fun w hn => by simp [decodeFam8, hn]

theorem encoded_shl : Encoded 0xF00F 0x800E (fun w => .shl (xReg w) (yReg w)) :=
  encoded_fam8 (n := 0xE) fun w hn => by simp [decodeFam8, hn]

/-! ### Results and flags as numbers and bits -/

theorem addByte_eq (a b : Byte) : addByte a b = BitVec.ofNat 8 ((a.toNat + b.toNat) % 256) := by
  apply BitVec.eq_of_toNat_eq
  simp [addByte]

/-- The difference with 256 lent, as no number goes below 0. -/
theorem subByte_eq (a b : Byte) : subByte a b = BitVec.ofNat 8 ((a.toNat + 256 - b.toNat) % 256) := by
  apply BitVec.eq_of_toNat_eq
  rw [subByte, BitVec.toNat_ofInt, BitVec.toNat_ofNat]
  omega

theorem shrByte_eq (a : Byte) : shrByte a = a >>> 1 := by
  apply BitVec.eq_of_toNat_eq
  rw [shrByte, BitVec.toNat_ofNat, BitVec.toNat_ushiftRight, Nat.shiftRight_eq_div_pow]
  omega

theorem shlByte_eq (a : Byte) : shlByte a = a <<< 1 := by
  apply BitVec.eq_of_toNat_eq
  rw [shlByte, BitVec.toNat_ofNat, BitVec.toNat_shiftLeft, Nat.shiftLeft_eq, pow_one]

theorem shrFlagOf_eq (a : Byte) : shrFlagOf a = a.getLsbD 0 := by
  rw [shrFlagOf, BitVec.getLsbD, Nat.testBit_zero]

theorem shlFlagOf_eq (a : Byte) : shlFlagOf a = a.getLsbD 7 := by
  have hmsb : a.msb = decide (128 ≤ a.toNat) := BitVec.msb_eq_decide a
  rw [shlFlagOf, ← hmsb, BitVec.msb_eq_getLsbD_last]

/-- The flag byte of SUB, by polarity (D30). -/
theorem subFlagByte_eq (p : SubFlagPolarity) (a b : Byte) : (if subFlagOf p a b then 1 else 0 : Byte) =
    if p = .notBorrow then (if a.toNat ≥ b.toNat then 1 else 0) else (if a.toNat < b.toNat then 1 else 0) := by
  cases p <;> simp [subFlagOf]

theorem carryByte_eq (a b : Byte) : (if carryOf a b then 1 else 0 : Byte) =
    if a.toNat + b.toNat > 255 then 1 else 0 := by
  simp [carryOf]

/-! ### What the instructions do, over the operations of the state -/

theorem exec_addVxNn (x : Reg) (nn : Byte) (s : State) :
    exec (.addVxNn x nn) s = .next (s.setV x (addByte (s.getV x) nn)).advance := rfl

theorem exec_addVxVy (x y : Reg) (s : State) : exec (.addVxVy x y) s = .next
    (s.setResultFlag x (addByte (s.getV x) (s.getV y)) (carryOf (s.getV x) (s.getV y))).advance := rfl

theorem exec_subVxVy (x y : Reg) (s : State) : exec (.subVxVy x y) s = .next
    (s.setResultFlag x (subByte (s.getV x) (s.getV y))
      (subFlagOf s.params.subFlagPolarity (s.getV x) (s.getV y))).advance := rfl

theorem exec_subn (x y : Reg) (s : State) : exec (.subn x y) s = .next
    (s.setResultFlag x (subByte (s.getV y) (s.getV x))
      (subFlagOf s.params.subFlagPolarity (s.getV y) (s.getV x))).advance := rfl

theorem exec_shr (x y : Reg) (s : State) :
    exec (.shr x y) s = .next (s.setResultFlag x (shrByte (s.getV x)) (shrFlagOf (s.getV x))).advance := rfl

theorem exec_shl (x y : Reg) (s : State) :
    exec (.shl x y) s = .next (s.setResultFlag x (shlByte (s.getV x)) (shlFlagOf (s.getV x))).advance := rfl

/-- Only V[x], then VF, and PC differ: every other field is literally that of the state before. -/
theorem State.advance_setResultFlag (s : State) (x : Reg) (b : Byte) (f : Bool) :
    (s.setResultFlag x b f).advance =
      { s with v := (s.v.set x.val b).set 15 (if f then 1 else 0), pc := s.pc + 2 } := rfl

/-- An instruction that writes the byte `b` to V[x], told by the byte it leaves there. -/
theorem State.advance_setV_bits (s : State) (x : Reg) (b : Byte) (bit : Nat → Bool) (hb : ∀ k, b.getLsbD k = bit k) :
    ∃ t, (.next (s.setV x b).advance : Host.Outcome State Fault Refusal) = .next t ∧
      t = { s with v := s.v.set x.val t.v[x.val], pc := s.pc + 2 } ∧ ∀ k, k < 8 → t.v[x.val].getLsbD k = bit k := by
  have hx : (s.setV x b).advance.v[x.val] = b := s.getV_setV_same x b
  refine ⟨_, rfl, ?_, fun k _ => ?_⟩
  · rw [hx]; rfl
  · rw [hx, hb]

end Sys2Proof.Machine

/-- Settles O11: the encoding, one register write and the advance, and the sum modulo 256. -/
theorem addImmediateWrapsWithoutFlag : Obligations.AddImmediateWrapsWithoutFlag := by
  refine ⟨encoded_addVxNn, fun x nn s => ?_⟩
  rw [exec_addVxNn, State.advance_setV, addByte_eq, State.getV_eq]

/-- Settles O12: the encodings, and each is one register write of a byte known bit by bit. -/
theorem bitwiseOpsCombineBits : Obligations.BitwiseOpsCombineBits := by
  refine ⟨encoded_orVxVy, encoded_andVxVy, encoded_xorVxVy, fun x y s => ⟨?_, ?_, ?_⟩⟩
  · exact s.advance_setV_bits x _ _ fun _ => BitVec.getLsbD_or
  · exact s.advance_setV_bits x _ _ fun _ => BitVec.getLsbD_and
  · exact s.advance_setV_bits x _ _ fun _ => BitVec.getLsbD_xor

/-- Settles O13: the encoding, the sum modulo 256 and the carry. -/
theorem addRegistersSetsCarry : Obligations.AddRegistersSetsCarry := by
  refine ⟨encoded_addVxVy, fun x y s => ?_⟩
  rw [exec_addVxVy, State.advance_setResultFlag, carryByte_eq, addByte_eq, State.getV_eq, State.getV_eq]

/-- Settles O14: the encodings, the difference modulo 256 and the flag of each polarity. -/
theorem subtractSetsFlagByPolarity : Obligations.SubtractSetsFlagByPolarity := by
  refine ⟨encoded_subVxVy, encoded_subn, fun x y s a b ha hb => ?_⟩
  subst ha hb
  refine ⟨?_, ?_⟩
  · rw [exec_subVxVy, State.advance_setResultFlag, subFlagByte_eq, subByte_eq, State.getV_eq, State.getV_eq]
  · rw [exec_subn, State.advance_setResultFlag, subFlagByte_eq, subByte_eq, State.getV_eq, State.getV_eq]

/-- Settles O15: the encodings, the byte shifted by one and the bit it loses. -/
theorem shiftsMoveOneBitIntoFlag : Obligations.ShiftsMoveOneBitIntoFlag := by
  refine ⟨encoded_shr, encoded_shl, fun x y s => ⟨?_, ?_⟩⟩
  · rw [exec_shr, State.advance_setResultFlag, shrByte_eq, shrFlagOf_eq, State.getV_eq]
  · rw [exec_shl, State.advance_setResultFlag, shlByte_eq, shlFlagOf_eq, State.getV_eq]

end

section
/-! The keypad and the timers (45_timers_keypad.md R214 to R216, 60_exceptions.md R245), and a CALL with its RET
(43_control_flow.md R162, R164). -/

open Sys2Proof Sys2Proof.Machine

namespace Sys2Proof.Machine

/-! ### Words of families E and F -/

theorem decodeWord_famE (strict : Bool) {w : Word} (ho : famField w = 0xE) : decodeWord strict w = decodeFamE w := by
  simp [decodeWord, ho]

theorem encoded_skp : Encoded 0xF0FF 0xE09E (fun w => .skp (xReg w)) :=
  encoded_fam_nn (o := 0xE) (nn := 0x9E) fun strict w ho hnn => by
    rw [decodeWord_famE strict ho]
    simp [decodeFamE, hnn]

theorem encoded_sknp : Encoded 0xF0FF 0xE0A1 (fun w => .sknp (xReg w)) :=
  encoded_fam_nn (o := 0xE) (nn := 0xA1) fun strict w ho hnn => by
    rw [decodeWord_famE strict ho]
    simp [decodeFamE, hnn]

theorem encoded_ldVxK : Encoded 0xF0FF 0xF00A (fun w => .ldVxK (xReg w)) :=
  encoded_famF (nn := 0x0A) fun w hnn => by simp [decodeFamF, hnn]

/-! ### The key instructions, over the operations of the state -/

theorem nibbleArg_of_toNat {v : Byte} {k : Fin 16} (h : v.toNat = k.val) : nibbleArg v = .ok k := by
  rw [nibbleArg_ok (by omega : v.toNat ≤ 15)]
  exact congrArg Except.ok (Fin.ext h)

theorem exec_skp_key {x : Reg} {s : State} {k : Fin 16} (h : (s.getV x).toNat = k.val) :
    exec (.skp x) s = .next (s.skipIf s.keys[k.val]) := by
  rw [exec, execSkp, nibbleArg_of_toNat h]; rfl

theorem exec_sknp_key {x : Reg} {s : State} {k : Fin 16} (h : (s.getV x).toNat = k.val) :
    exec (.sknp x) s = .next (s.skipIf !s.keys[k.val]) := by
  rw [exec, execSknp, nibbleArg_of_toNat h]; rfl

/-- Only PC differs. -/
theorem State.skipIf_eq (s : State) (c : Bool) : s.skipIf c = { s with pc := if c then s.pc + 4 else s.pc + 2 } := by
  cases c <;> rfl

theorem State.skipIf_not_eq (s : State) (c : Bool) :
    s.skipIf (!c) = { s with pc := if c then s.pc + 2 else s.pc + 4 } := by
  cases c <;> rfl

/-! ### The timers -/

theorem countDown_toNat (b : Byte) : (countDown b).toNat = b.toNat - 1 := by
  unfold countDown
  split_ifs with h
  · rw [h]; rfl
  · have hpos : b.toNat ≠ 0 := BitVec.toNat_ne_iff_ne.2 h
    have hsub : (b - 1).toNat = (2 ^ 8 - 1 + b.toNat) % 2 ^ 8 := BitVec.toNat_sub b 1
    rw [hsub]
    omega

/-! ### A CALL and its RET -/

/-- The state a CALL with room leaves. -/
def State.called (s : State) (nnn : Addr12) (h : s.sp.val < 16) : State :=
  { s with stack := s.stack.set s.sp.val s.pc, sp := ⟨s.sp.val + 1, by omega⟩, pc := nnnTarget nnn }

theorem State.topSlot_called (s : State) (nnn : Addr12) (h : s.sp.val < 16) : (s.called nnn h).topSlot = s.pc := by
  have htop : (s.called nnn h).topSlot = (s.stack.set s.sp.val s.pc)[s.sp.val] :=
    State.topSlot_eq (k := ⟨s.sp.val, h⟩) rfl
  rw [htop, Vector.getElem_set_self]

theorem returnTarget_toNat (r : RetAdvance) {a : Word} (h : a.toNat < 4096) :
    (returnTarget r a).toNat = a.toNat + if r = .plus2 then 2 else 0 := by
  rw [returnTarget_ofNat, BitVec.toNat_ofNat, Nat.mod_eq_of_lt]
  split_ifs <;> omega

end Sys2Proof.Machine

/-- Settles O35: the encodings, and the two answers of the key number check at 15. -/
theorem keySkipsFollowKeyLevel : Obligations.KeySkipsFollowKeyLevel := by
  refine ⟨encoded_skp, encoded_sknp, fun x s =>
    ⟨fun k hk => ⟨?_, ?_⟩, fun habove => ⟨exec_skp_above habove, exec_sknp_above habove⟩, fun _ _ => rfl⟩⟩
  · rw [exec_skp_key hk, State.skipIf_eq]
  · rw [exec_sknp_key hk, State.skipIf_not_eq]

/-- Settles O36: the encoding, and the key chosen is none exactly when no key is down. -/
theorem waitForKeyRepeatsUntilKeyDown : Obligations.WaitForKeyRepeatsUntilKeyDown := by
  refine ⟨encoded_ldVxK, fun x s => ?_⟩
  rw [exec_ldVxK]
  cases hkey : chooseKey (Config.freeKeyPick s.draws) s.downKeys with
  | none =>
    refine ⟨fun _ => rfl, fun ⟨k, hk⟩ => ?_⟩
    have hdown : k ∈ s.downKeys := (mem_downKeys s k).2 hk
    rw [(chooseKey_eq_none _ _).1 hkey] at hdown
    cases hdown
  | some k =>
    have hdown : s.keys[k.val] = true := (mem_downKeys s k).1 (chooseKey_mem hkey)
    refine ⟨fun hup => ?_, fun _ => ⟨k, hdown, rfl⟩⟩
    rw [hup k] at hdown
    cases hdown

/-- Settles O37: each decrement writes one timer, and the tone is read off ST. -/
theorem timerDecrementsStopAtZero : Obligations.TimerDecrementsStopAtZero := by
  refine fun s => ⟨⟨_, rfl, rfl, countDown_toNat s.dt⟩, ⟨_, rfl, rfl, countDown_toNat s.st⟩, ?_⟩
  rw [tone_eq_true_iff, ← BitVec.toNat_ne_iff_ne]
  rfl

/-- Settles O29: RET pops the slot the CALL has just filled with its own address. -/
theorem callThenReturnRoundTrips : Obligations.CallThenReturnRoundTrips := by
  intro nnn s hroom hpc
  have htop := s.topSlot_called nnn hroom
  have hret := exec_ret_inside (s := s.called nnn hroom) (Nat.succ_ne_zero _) (by rw [htop]; exact hpc)
  refine ⟨s.called nnn hroom, _, exec_call_room hroom hpc nnn, hret, ?_, ?_, rfl⟩
  · exact Fin.ext (Nat.add_sub_cancel _ _)
  · rw [State.jumpTo_pc, htop, returnTarget_toNat _ hpc]; rfl

end

section
/-! The framebuffer primitives (10_state.md R36) and a sprite drawn twice (44_display.md R193). -/

open Sys2Proof Sys2Proof.Machine

namespace Sys2Proof.Machine

theorem fbXor_outside (f : Framebuffer) {x y : Nat} (b : Bool) (h : ¬ (x < 64 ∧ y < 32)) :
    fbXor f x y b = .error (.outOfRangePixel x y) := dif_neg h

/-- A pixel XORed with 1 twice is restored. -/
theorem fbXor_twice (f : Framebuffer) {x y : Nat} (hx : x < 64) (hy : y < 32) :
    ∃ g off off', fbXor f x y true = .ok (g, off) ∧ fbXor g x y true = .ok (f, off') ∧
      (off = true ↔ f.pixel x y = true) := by
  obtain ⟨g, hg, hgpix⟩ := fbXor_inside f true hx hy
  obtain ⟨f', hf', hfpix⟩ := fbXor_inside g true hx hy
  have hback : f' = f := Framebuffer.ext_pixel fun x' y' _ _ => by
    rw [hfpix, hgpix, Bool.xor_assoc, Bool.xor_self, Bool.xor_false]
  exact ⟨g, _, _, hg, hback ▸ hf', by rw [Bool.and_true]⟩

/-- A draw that completes: the sprite's bits are XORed in, and VF says whether a set pixel was turned off. -/
theorem exec_drw_completes (x y : Reg) {n : Nibble} {s : State} (hn : n ≠ 0) (hin : s.i + n.toNat ≤ 4096) :
    ∃ g hit, exec (.drw x y n) s = .next ((s.setFb g).setFlag hit).advance ∧
      (∀ px py, g.pixel px py = (s.fb.pixel px py ^^ bitsAt (s.spritePixels x y n) px py)) ∧
      (hit = true ↔ ∃ px py, px < 64 ∧ py < 32 ∧ s.fb.pixel px py = true ∧ g.pixel px py = false) := by
  obtain ⟨g, hit, hdraw, hg, hhit⟩ := drawBits_spritePixels s x y n
  exact ⟨g, hit, exec_drw_inside hn hin hdraw, hg, hhit⟩

/-- The pixels of a sprite depend on the coordinates, I and memory alone. -/
theorem State.spritePixels_congr {s t : State} {x y : Reg} (n : Nibble) (hx : t.v[x.val] = s.v[x.val])
    (hy : t.v[y.val] = s.v[y.val]) (hi : t.i = s.i) (hmem : t.mem = s.mem) :
    t.spritePixels x y n = s.spritePixels x y n := by
  rw [State.spritePixels, State.spritePixels, State.spriteRows, State.spriteRows, State.getV_eq, State.getV_eq,
    State.getV_eq, State.getV_eq, hx, hy, hi, hmem]

/-- A set pixel that a second drawing clears is one the first set: a set bit on a clear pixel. -/
theorem collision_of_redraw {s : State} {x y : Reg} {n : Nibble} {g : Framebuffer}
    (hg : ∀ px py, g.pixel px py = (s.fb.pixel px py ^^ bitsAt (s.spritePixels x y n) px py)) :
    (∃ px py, px < 64 ∧ py < 32 ∧ g.pixel px py = true ∧ s.fb.pixel px py = false) ↔
      ∃ r c, r < n.toNat ∧ c < 8 ∧ (s.mem.read (s.i + r)).getLsbD (7 - c) = true ∧
        s.fb.pixel ((s.v[x.val].toNat + c) % 64) ((s.v[y.val].toNat + r) % 32) = false := by
  constructor
  · rintro ⟨px, py, -, -, hset, hclear⟩
    rw [hg, hclear, Bool.false_xor, State.bitsAt_spritePixels] at hset
    obtain ⟨r, c, hr, hc, hbit, rfl, rfl⟩ := hset
    exact ⟨r, c, hr, hc, hbit, hclear⟩
  · rintro ⟨r, c, hr, hc, hbit, hclear⟩
    refine ⟨_, _, Nat.mod_lt _ (by decide), Nat.mod_lt _ (by decide), ?_, hclear⟩
    rw [hg, hclear, Bool.false_xor, State.bitsAt_spritePixels]
    exact ⟨r, c, hr, hc, hbit, rfl, rfl⟩

end Sys2Proof.Machine

/-- Settles O33: the equation of each primitive inside the grid and outside it. -/
theorem framebufferPrimitivesCheckBounds : Obligations.FramebufferPrimitivesCheckBounds := by
  refine fun s x y b => ⟨fun hin => ⟨if_pos hin, ?_⟩, fun hout => ⟨if_neg hout, fbXor_outside s.fb b hout⟩,
    pixel_fbClear, rfl⟩
  obtain ⟨g, hg, hpix⟩ := fbXor_inside s.fb b hin.1 hin.2
  refine ⟨g, hg, ?_, fun x' y' hne => ?_⟩
  · rw [hpix, decide_eq_true ⟨rfl, rfl⟩, Bool.and_true, Bool.xor_comm]
  · have hne' : ¬ (x' = x ∧ y' = y) := fun h => hne (Prod.ext h.1 h.2)
    rw [hpix, decide_eq_false hne', Bool.and_false, Bool.xor_false]

/-- Settles O32: at the same coordinates both draws XOR the same bits, which cancel. -/
theorem drawTwiceRestoresFramebuffer : Obligations.DrawTwiceRestoresFramebuffer := by
  refine ⟨fun x y n s hn hin => ?_, fun f x y hx hy => fbXor_twice f hx hy⟩
  obtain ⟨g, hit, hfirst, hg, -⟩ := exec_drw_completes x y hn hin
  obtain ⟨f, hit', hsecond, hf, hhit'⟩ := exec_drw_completes x y (s := ((s.setFb g).setFlag hit).advance) hn hin
  refine ⟨_, _, hfirst, hsecond, fun ⟨hx, hy⟩ => ⟨State.setFlag_v_other _ hit hx, State.setFlag_v_other _ hit hy⟩,
    fun hvx hvy => ?_⟩
  have hsame := State.spritePixels_congr n hvx hvy rfl rfl
  have hback : f = s.fb := Framebuffer.ext_pixel fun px py _ _ => by
    rw [hf, hsame]
    show (g.pixel px py ^^ _) = _
    rw [hg, Bool.xor_assoc, Bool.xor_self, Bool.xor_false]
  refine ⟨hback, ?_⟩
  rw [State.advance_v, State.setFlag_vf, flagByte_eq_one_iff, hhit', hback]
  exact collision_of_redraw hg

end
